-- ==== Sys2Proof/Word.lean ====
section
/-! DEFINITION. The word types of the block: op words, wire bytes, nibbles and colour codes (spec/00_scope.md R11, R12). -/

namespace Sys2Proof

/-- An op word and a register value: 32 bits (R11). -/
abbrev Word := BitVec 32

/-- A wire byte: 8 bits (R11). -/
abbrev Byte := BitVec 8

/-- A wire nibble: 4 bits (R11). -/
abbrev Nibble := BitVec 4

/-- The wire code of a colour: 3 bits, every value legal (R11, 30_encoding.md R113). -/
abbrev Colour := BitVec 3

/-- A byte offset in the register window: 5 bits, window 0x20 bytes (R11, 10_state.md R32 h_addr). -/
abbrev Offset := BitVec 5

/-- A one-bit flag as a bit vector, 1 when it holds. -/
abbrev bit1 (b : Bool) : BitVec 1 := BitVec.ofBool b

end Sys2Proof
end

