-- ==== Sys2Proof/Syntax.lean ====
section
/-! DEFINITION. The op words as syntax: one constructor for each row of spec/opcode_table.json
(spec/30_encoding.md R101 to R109). -/

namespace Sys2Proof

/-- The eight ops of R101. Operands are the fields of R110, read unsigned. -/
inductive Instr where
  /-- opcode 0x0, R102: no operand. -/
  | nop
  /-- opcode 0x1, R103: `byte` is the command byte sent with D/C low. -/
  | cmd (byte : Byte)
  /-- opcode 0x2, R104: `last` closes the data transaction after the byte. -/
  | data (last : Bool) (byte : Byte)
  /-- opcode 0x3, R105: wire codes of the left and the right pixel. -/
  | pix (last : Bool) (left right : Colour)
  /-- opcode 0x4, R106: `count` bytes, 1 to 65535, of one colour. -/
  | fill (count : BitVec 16) (last : Bool) (color : Colour)
  /-- opcode 0x5, R107: the panel reset pulse. -/
  | reset
  /-- opcode 0x6, R108: wait for the busy line. -/
  | waitidle
  /-- opcode 0x7, R109: delay in milliseconds. -/
  | delay (ms : BitVec 20)
  deriving DecidableEq, Repr

/-- The opcode of an op, op-word bits [31:28] (R101). -/
def Instr.opcode : Instr → BitVec 4
  | .nop => 0x0
  | .cmd _ => 0x1
  | .data _ _ => 0x2
  | .pix _ _ _ => 0x3
  | .fill _ _ _ => 0x4
  | .reset => 0x5
  | .waitidle => 0x6
  | .delay _ => 0x7

end Sys2Proof
end

