-- ==== Sys2Proof/WellFormed.lean ====
section
/-! DEFINITION. Well-formed ops: the operand conditions the field widths do not already impose
(spec/30_encoding.md R106, R111, R113, R114). -/

namespace Sys2Proof

/-- Whether an op is one that some legal word stands for. Only FILL has a condition beyond the widths of its fields:
COUNT = 0 is illegal (R106). Bytes and colour codes are not checked (R113, R114). -/
def Instr.wellFormed : Instr → Bool
  | .nop => true
  | .cmd _ => true
  | .data _ _ => true
  | .pix _ _ _ => true
  | .fill count _ _ => count != 0
  | .reset => true
  | .waitidle => true
  | .delay _ => true

/-- `wellFormed` as a proposition. -/
abbrev WellFormed (i : Instr) : Prop := i.wellFormed = true

end Sys2Proof
end

