-- ==== Sys2Proof/Decode.lean ====
section
/-! DEFINITION. Decoding and encoding of op words (spec/30_encoding.md R100 to R115) and the machine-readable opcode
table. The decoder is total on all 2^32 words (R112) and refuses every word that R111 does not call legal. -/

namespace Sys2Proof

/-- Op-word bits [31:28], the opcode (R100). -/
def opcodeOf (w : Word) : BitVec 4 := w.extractLsb' 28 4

/-- The legality check of R111, opcode by opcode. It is applied when a word is dispatched, never on write. -/
def legal (w : Word) : Bool :=
  match (opcodeOf w).toNat with
  | 0x0 => w == 0#32
  | 0x1 => w.extractLsb' 8 20 == 0#20
  | 0x2 => w.extractLsb' 9 19 == 0#19
  | 0x3 => w.extractLsb' 9 19 == 0#19 && w.extractLsb' 7 1 == 0#1 && w.extractLsb' 3 1 == 0#1
  | 0x4 => w.extractLsb' 9 3 == 0#3 && w.extractLsb' 3 5 == 0#5 && w.extractLsb' 12 16 != 0#16
  | 0x5 => w.extractLsb' 0 28 == 0#28
  | 0x6 => w.extractLsb' 0 28 == 0#28
  | 0x7 => w.extractLsb' 20 8 == 0#8
  | _ => false

/-- BYTE = w[7:0] (R110). -/
def fieldByte (w : Word) : Byte := w.extractLsb' 0 8
/-- LAST = w[8] (R110). -/
def fieldLast (w : Word) : Bool := w.getLsbD 8
/-- LEFT = w[6:4] (R110). -/
def fieldLeft (w : Word) : Colour := w.extractLsb' 4 3
/-- RIGHT = w[2:0] (R110). -/
def fieldRight (w : Word) : Colour := w.extractLsb' 0 3
/-- COLOR = w[2:0] (R110). -/
def fieldColor (w : Word) : Colour := w.extractLsb' 0 3
/-- COUNT = w[27:12] (R110). -/
def fieldCount (w : Word) : BitVec 16 := w.extractLsb' 12 16
/-- MS = w[19:0] (R110). -/
def fieldMs (w : Word) : BitVec 20 := w.extractLsb' 0 20

/-- The op a word's opcode and fields name, the reserved bits not looked at (R101, R110). -/
def readFields (w : Word) : Option Instr :=
  match (opcodeOf w).toNat with
  | 0x0 => some .nop
  | 0x1 => some (.cmd (fieldByte w))
  | 0x2 => some (.data (fieldLast w) (fieldByte w))
  | 0x3 => some (.pix (fieldLast w) (fieldLeft w) (fieldRight w))
  | 0x4 => some (.fill (fieldCount w) (fieldLast w) (fieldColor w))
  | 0x5 => some .reset
  | 0x6 => some .waitidle
  | 0x7 => some (.delay (fieldMs w))
  | _ => none

/-- The decoder: the op a legal word stands for, and nothing for an illegal word (R111, R112). -/
def decode (w : Word) : Option Instr :=
  if legal w then readFields w else none

/-- The words of a well-formed op, field by field from the layouts of R102 to R109. -/
def encode : Instr → Word
  | .nop => 0x0#4 ++ 0#28
  | .cmd byte => 0x1#4 ++ 0#20 ++ byte
  | .data last byte => 0x2#4 ++ 0#19 ++ bit1 last ++ byte
  | .pix last left right => 0x3#4 ++ 0#19 ++ bit1 last ++ 0#1 ++ left ++ 0#1 ++ right
  | .fill count last color => 0x4#4 ++ count ++ 0#3 ++ bit1 last ++ 0#5 ++ color
  | .reset => 0x5#4 ++ 0#28
  | .waitidle => 0x6#4 ++ 0#28
  | .delay ms => 0x7#4 ++ 0#8 ++ ms

/-- A row of spec/opcode_table.json. -/
structure OpRow where
  mnemonic : String
  pattern : Word
  mask : Word
  deriving DecidableEq, Repr

/-- The rows of spec/opcode_table.json with their match and mask (R102 to R109). FILL has the further condition
COUNT ≠ 0 (R106). -/
def opcodeTable : List OpRow :=
  [ ⟨"nop", 0x00000000, 0xFFFFFFFF⟩,
    ⟨"cmd", 0x10000000, 0xFFFFFF00⟩,
    ⟨"data", 0x20000000, 0xFFFFFE00⟩,
    ⟨"pix", 0x30000000, 0xFFFFFE88⟩,
    ⟨"fill", 0x40000000, 0xF0000EF8⟩,
    ⟨"reset", 0x50000000, 0xFFFFFFFF⟩,
    ⟨"waitidle", 0x60000000, 0xFFFFFFFF⟩,
    ⟨"delay", 0x70000000, 0xFFF00000⟩ ]

/-- Whether a word has the fixed bits of a row. -/
def OpRow.admits (r : OpRow) (w : Word) : Bool := w &&& r.mask == r.pattern

/-- The mnemonic of an op as the table spells it. -/
def Instr.mnemonic : Instr → String
  | .nop => "nop"
  | .cmd _ => "cmd"
  | .data _ _ => "data"
  | .pix _ _ _ => "pix"
  | .fill _ _ _ => "fill"
  | .reset => "reset"
  | .waitidle => "waitidle"
  | .delay _ => "delay"

/-- What the decoder reads from an instruction of the table whose bits are `w` (bit 0 the least significant): an op
word is one 32-bit word (R100), bits above `nbits` are 0. -/
def decodeTableWord (nbits w : Nat) : Option Instr :=
  if nbits ≤ 32 then decode (BitVec.ofNat 32 (w % 2 ^ nbits)) else none

end Sys2Proof
end

