-- ==== Sys2Proof/Config.lean ====
section
/-! DEFINITION. The build-time parameters of spec/00_scope.md R9 with their ranges and defaults, the host-program
constants of R10, and the one free value, the busy line past the listed inputs. -/

namespace Sys2Proof

/-- The implementation parameters of R9. The block is defined for every value within the ranges; they do not change
while the block runs. -/
structure Config where
  /-- `BASE`: the address of register offset 0x00. -/
  base : Nat
  /-- `QDEPTH`: depth of the op queue in words. -/
  qdepth : Nat
  /-- `TICK_DIV`: clock cycles per millisecond. -/
  tickDiv : Nat
  /-- `SCK_HALF`: cycles per SCLK half period. -/
  sckHalf : Nat
  /-- `T_DCS`: cycles DC is set before CS_N falls. -/
  tDcs : Nat
  /-- `T_CSS`: cycles from the fall of CS_N to the first bit's low half. -/
  tCss : Nat
  /-- `T_CSH`: cycles from the last SCLK fall to the rise of CS_N. -/
  tCsh : Nat
  /-- `T_CSW`: minimum cycles CS_N stays high between transactions. -/
  tCsw : Nat
  /-- `T_RST_H1_MS`: first high phase of the reset pulse, in ms. -/
  rstH1Ms : Nat
  /-- `T_RST_L_MS`: low phase of the reset pulse, in ms. -/
  rstLMs : Nat
  /-- `T_RST_H2_MS`: final high phase of the reset pulse, in ms. -/
  rstH2Ms : Nat
  /-- `POLL_MS`: busy poll interval, in ms. -/
  pollMs : Nat
  /-- `TIMEOUT_MS`: idle-wait bound, in ms. -/
  timeoutMs : Nat
  /-- `BUSY_IDLE_LEVEL`: the level of busy_in that means idle. -/
  busyIdleLevel : Bool
  /-- `DEBOUNCE_N`: consecutive idle samples for success. -/
  debounceN : Nat
  deriving DecidableEq, Repr

namespace Config

/-- The ranges of R9: the values for which the spec defines the block. -/
abbrev Valid (c : Config) : Prop :=
  1 ≤ c.qdepth ∧ c.qdepth ≤ 255 ∧ 1 ≤ c.tickDiv ∧ 1 ≤ c.sckHalf ∧ 1 ≤ c.tDcs ∧ 1 ≤ c.tCss ∧ 1 ≤ c.tCsh ∧
  1 ≤ c.tCsw ∧ 1 ≤ c.rstH1Ms ∧ 1 ≤ c.rstLMs ∧ 1 ≤ c.rstH2Ms ∧ 1 ≤ c.pollMs ∧ 1 ≤ c.timeoutMs ∧
  c.timeoutMs < 2 ^ 32 ∧ 1 ≤ c.debounceN ∧ c.debounceN ≤ 255 ∧ c.base % 0x20 = 0

/-- The defaults of R9. The parameters R9 marks OPEN have no default in the spec: `base`, `tickDiv` and the five
framing times take the values named in log entry 3 (DESIGN CHOICE; the framing times and `tickDiv` are those of
95_test_vectors.md). No statement rests on them. -/
def default : Config where
  base := 0
  qdepth := 16
  tickDiv := 1
  sckHalf := 1
  tDcs := 1
  tCss := 1
  tCsh := 1
  tCsw := 1
  rstH1Ms := 50
  rstLMs := 20
  rstH2Ms := 50
  pollMs := 10
  timeoutMs := 500000
  busyIdleLevel := true
  debounceN := 1

/-- The level of `busy_in` in a cycle for which the state lists no input: the spec gives it no law (R22, 93 U9).
A free value, applied to the count of cycles since power-up (log entry 2). -/
opaque freeBusy : Nat → Bool

end Config

/-- The host-program constants of R10; the block itself does not use them. -/
def WIDTH : Nat := 800
/-- See `WIDTH`. -/
def HEIGHT : Nat := 480
/-- Bytes in one packed row (R10: `WIDTH / 2`). -/
def ROW_BYTES : Nat := 400
/-- Bytes in one frame (R10: `ROW_BYTES * HEIGHT`). -/
def FRAME_BYTES : Nat := 192000
/-- The panel-settle delay of the init program, in ms (R10). -/
def SETTLE_MS : Nat := 30

/-! The panel's opcodes and parameter bytes that the document gives, by name (R5; their uses are in
44_host_sequences.md R225, R227 and R234). The block itself does not know them; the OPEN ones are in `PanelTable`. -/

/-- The power-on command, first phase of the refresh. -/
abbrev OPC_PON : Byte := 0x04
/-- The command before the timing parameters `P06`, second phase. -/
abbrev OPC_TIMING : Byte := 0x06
/-- The refresh trigger, third phase. -/
abbrev OPC_REFRESH : Byte := 0x12
/-- The power-off command, fourth phase. -/
abbrev OPC_POF : Byte := 0x02
/-- The deep-sleep command. -/
abbrev OPC_SLEEP : Byte := 0x07
/-- The parameter byte of the refresh trigger. -/
abbrev P12 : Byte := 0x00
/-- The parameter byte of power-off. -/
abbrev P02 : Byte := 0x00

end Sys2Proof
end

