-- ==== Sys2Proof/Machine/State.lean ====
section
/-! DEFINITION. The state of the block: the record of spec/10_state.md R33, field by field, and beside it the model's
own fields (the cycle index, the parameters, the environment's inputs to come, the counter of the free value). -/

namespace Sys2Proof.Machine

/-- The engine state of R43: no op running, an op word's micro-program running, or the internal close running. -/
inductive Engine where
  | idle
  | exec
  | close
  deriving DecidableEq, Repr

/-- A micro-program continuation (R43): the edge at which its segment runs, and which statement of the running op's
micro-program is next, counted from 0 (log entry 7). -/
structure Resume where
  wake : Nat
  pc : Nat
  deriving DecidableEq, Repr

/-- One host access of the register port (00_scope.md R16, 10_state.md R32): a read of a byte offset, or a write. -/
inductive Access where
  | read (off : Offset)
  | write (off : Offset) (v : Word)
  deriving DecidableEq, Repr

/-- What the environment does during one cycle (R32): `rst_sys`, at most one host access, and the level of `busy_in`. -/
structure Input where
  rst : Bool
  access : Option Access
  busy : Bool
  deriving DecidableEq, Repr

/-- `S` of R33 with the widths given there; a one-bit field is a `Bool`, true for 1. The last four fields are the
model's own (log entries 1 to 3). -/
structure State where
  /-- CTRL.EN (R35). -/
  en : Bool
  /-- CTRL.IE_DONE (R35). -/
  ieDone : Bool
  /-- CTRL.IE_ERR (R35). -/
  ieErr : Bool
  /-- STATUS.DONE, sticky (R36). -/
  done : Bool
  /-- STATUS.ERR, sticky (R36). -/
  err : Bool
  /-- STATUS.ERRCODE (R36). -/
  errcode : BitVec 3
  /-- ERRINFO (R38). -/
  errinfo : Word
  /-- POLLS (R39). -/
  polls : Word
  /-- The op queue, head first (R42). -/
  q : List Word
  /-- The engine (R43). -/
  eng : Engine
  /-- The op word being executed (R43). -/
  cur : Word
  /-- The micro-program continuation (R43). -/
  k : Option Resume
  /-- Bytes a running FILL has still to send (R48). -/
  rem : Nat
  /-- Milliseconds waited by the running WAIT_IDLE (R47). -/
  elapsed : Nat
  /-- Consecutive idle samples (R47). -/
  idleCnt : Nat
  /-- Pin CS_N (R44). -/
  csN : Bool
  /-- Pin DC (R44). -/
  dc : Bool
  /-- Pin SCLK (R44). -/
  sclk : Bool
  /-- Pin MOSI (R44). -/
  mosi : Bool
  /-- The edge at which CS_N last rose, or NEVER (R44). -/
  tCsRise : Option Nat
  /-- The edge of the last SCLK fall that ended a byte, or NEVER (R44). -/
  tSclkFall : Option Nat
  /-- Pin RST_N (R45). -/
  rstN : Bool
  /-- First synchronizer stage (R46). -/
  bsync1 : Bool
  /-- Second synchronizer stage, the level the block looks at (R46). -/
  bsync2 : Bool
  /-- The index t of the cycle this is the state of (00_scope.md R13); the next edge is `cycle + 1`. -/
  cycle : Nat
  /-- The build-time parameters (00_scope.md R9). -/
  cfg : Config
  /-- What the environment does in this cycle (the head) and the cycles after it. -/
  inputs : List Input
  /-- Cycles since power-up: the argument of the free value `freeBusy`. -/
  draws : Nat
  deriving DecidableEq, Repr

/-- Why a step stops. The block itself never stops: its own errors are recorded and it goes on
(60_exceptions.md R255 to R257). -/
inductive Fault where
  /-- Raised by `step` when a parameter lies outside its range: R9 defines the block only within the ranges. Safe: the
  model says nothing of such a block. -/
  | parameterOutOfRange
  deriving DecidableEq, Repr

/-- Why an instruction has no meaning. -/
inductive Refusal where
  /-- Raised only by a refused arm of `exec`: the instruction of that mnemonic has no meaning in the model yet. Safe:
  nothing can be proved of it. No arm raises it now. -/
  | notModelled (mnemonic : String)
  deriving DecidableEq, Repr

/-- The state in cycle 0 after `rst_sys` is released (R60, 70_reset_and_hazards.md R290). The model's own fields: the
cycle is 0 (R13); the parameters are the defaults (log entry 3); no input is listed (log entry 2). -/
def State.reset : State where
  en := false
  ieDone := false
  ieErr := false
  done := false
  err := false
  errcode := 0#3
  errinfo := 0#32
  polls := 0#32
  q := []
  eng := .idle
  cur := 0#32
  k := none
  rem := 0
  elapsed := 0
  idleCnt := 0
  csN := true
  dc := false
  sclk := false
  mosi := false
  tCsRise := none
  tSclkFall := none
  rstN := true
  bsync1 := false
  bsync2 := false
  cycle := 0
  cfg := Config.default
  inputs := []
  draws := 0

end Sys2Proof.Machine
end

