-- ==== Sys2Proof/Machine/Flags.lean ====
section
/-! DEFINITION. The register values and flags computed from the state: CTRL, STATUS, PINS, irq and the error codes
(spec/10_state.md R35 to R41, spec/60_exceptions.md R250, R265, R266). -/

namespace Sys2Proof.Machine

/-- The errors that go through the error procedure (60_exceptions.md R250, R251). -/
inductive ErrorKind where
  | timeout
  | illegalOp
  | overflow
  deriving DecidableEq, Repr

/-- ERRCODE of an error (R36, R250). -/
def ErrorKind.code : ErrorKind → BitVec 3
  | .timeout => 1
  | .illegalOp => 2
  | .overflow => 3

namespace State

/-- `IDLE(S)`: no op running and nothing queued (R36, R266). -/
def isIdle (s : State) : Bool := s.eng == .idle && s.q.isEmpty

/-- `irq` in the cycle of the state (R265). -/
def irq (s : State) : Bool := (s.done && s.ieDone) || (s.err && s.ieErr)

/-- The value of CTRL when read: `zext_32(ie_err :: ie_done :: 0b00 :: 0 :: en)` (R35). FLUSH reads 0. -/
def ctrlValue (s : State) : Word :=
  (bit1 s.ieErr ++ bit1 s.ieDone ++ 0b00#2 ++ 0#1 ++ bit1 s.en).setWidth 32

/-- The value of STATUS when read (R36), from bit 31 down: reserved, QCOUNT, reserved, ERRCODE, reserved, ERR, DONE,
QFULL, TXOPEN, ACTIVE, IDLE. -/
def statusValue (s : State) : Word :=
  0#8 ++ BitVec.ofNat 8 s.q.length ++ 0#5 ++ s.errcode ++ 0#2 ++ bit1 s.err ++ bit1 s.done ++
    bit1 (s.q.length == s.cfg.qdepth) ++ bit1 (!s.csN) ++ bit1 (s.eng != .idle) ++ bit1 s.isIdle

/-- The value of PINS when read (R40), from bit 6 down: irq, bsync2, mosi, sclk, rst_n, dc, cs_n. -/
def pinsValue (s : State) : Word :=
  (bit1 s.irq ++ bit1 s.bsync2 ++ bit1 s.mosi ++ bit1 s.sclk ++ bit1 s.rstN ++ bit1 s.dc ++ bit1 s.csN).setWidth 32

/-- Whether a busy sample, which is the level `bsync2` of the cycle before the edge, is idle (42_busy_wait.md R182). -/
def sampleIdle (s : State) : Bool := s.bsync2 == s.cfg.busyIdleLevel

end State

end Sys2Proof.Machine
end

