-- ==== Sys2Proof/Machine/Operands.lean ====
section
/-! DEFINITION. The colour codec (spec/41_codec.md R160 to R169): the operand forms of PIX and FILL as pure functions
of the op word's fields, and the named colours of R160. -/

namespace Sys2Proof.Machine

/-- `enc(c) = 0 :: c`, the wire nibble of a colour code (R161). Total on all eight codes. -/
def enc (c : Colour) : Nibble := 0#1 ++ c

/-- `pack(l, r) = enc(l) << 4 | enc(r)` as an 8-bit value (R163): left pixel in the high nibble. -/
def pack (l r : Colour) : Byte := ((enc l).setWidth 8 <<< 4) ||| (enc r).setWidth 8

/-- `fb(c) = pack(c, c)`, the flood-fill byte (R164). -/
def fillByte (c : Colour) : Byte := pack c c

/-- The pair of codes of a wire byte whose bits 7 and 3 are 0 (R168); the block itself has no unpacking path. -/
def unpack (b : Byte) : Option (Colour × Colour) :=
  if b.getLsbD 7 || b.getLsbD 3 then none else some (b.extractLsb' 4 3, b.extractLsb' 0 3)

/-- The colours the document names (R160). -/
inductive ColourName where
  | black
  | white
  | yellow
  | red
  | blue
  | green
  | clean
  deriving DecidableEq, Repr

/-- The wire code of a named colour (R160), which is not its position in the document's list (R162). -/
def ColourName.code : ColourName → Colour
  | .black => 0b000
  | .white => 0b001
  | .yellow => 0b010
  | .red => 0b011
  | .blue => 0b101
  | .green => 0b110
  | .clean => 0b111

end Sys2Proof.Machine
end

