-- ==== Sys2Proof/Machine/Ops.lean ====
section
/-! DEFINITION. The shared operations of the block: time, suspending and ending a micro-program, the error procedure
and the return from an error, the micro-program statements of spec/00_scope.md R14 and R15 with what each does, and
the framer primitives of spec/40_framer.md R131 to R133. -/

namespace Sys2Proof.Machine

/-! ### Time, suspension and end -/

/-- `now`: the edge at which a segment runs that reads this state as `S_{τ-1}` (R14). -/
def State.now (s : State) : Nat := s.cycle + 1

/-- The engine waits: its next segment runs at edge `wake`, from statement `pc` on (R15). -/
def State.suspend (s : State) (wake pc : Nat) : State := { s with k := some ⟨wake, pc⟩ }

/-- `end`: no continuation is left, the engine is free from this edge (R15). What is dispatched at the same edge is
decided by `dispatchOp`, which then writes `eng`. -/
def State.endOp (s : State) : State := { s with k := none }

/-- The edge from which `now >= t + n` holds; with `t = NEVER` it always holds (10_state.md R44). -/
def afterEdge (t : Option Nat) (n : Nat) : Nat :=
  match t with
  | none => 0
  | some t => t + n

/-! ### Taking an error and returning from it -/

/-- The error procedure of 60_exceptions.md R255 on a state in which a host clear of the same edge has already taken
effect, so that `err` here is R255's `prior`: the first error is recorded, a later one is not, and the queue is
flushed either way. -/
def State.recordError (e : ErrorKind) (info : Word) (s : State) : State :=
  { s with
    err := true
    errcode := if s.err then s.errcode else e.code
    errinfo := if s.err then s.errinfo else info
    q := [] }

/-- `raise E(info)` by the engine (R15, R255): the error procedure, and the raising micro-program ends with the engine
idle, since a flush holds at this edge. There is no vector and no mode change (R257). -/
def State.raise (e : ErrorKind) (info : Word) (s : State) : State :=
  { s.recordError e info with eng := .idle, k := none }

/-- The return from an error (60_exceptions.md R258): the host's clear of STATUS bit 5 puts ERR and ERRCODE to 0.
ERRINFO keeps the old word. -/
def State.clearError (s : State) : State := { s with err := false, errcode := 0#3 }

/-! ### Micro-program statements -/

/-- The statements micro-programs are made of (R14, R15). `wait` lengths are already computed from the parameters. -/
inductive Stmt where
  /-- `if cs_n = 0:` over the next `n` statements: they are skipped when CS_N is high. -/
  | skipIfHigh (n : Nat)
  /-- `if cs_n = 1:` over the next `n` statements: they are skipped when CS_N is low. -/
  | skipIfLow (n : Nat)
  /-- `wait(n)`. -/
  | wait (n : Nat)
  /-- `wait_until(now >= t_cs_rise + n)`. -/
  | waitRise (n : Nat)
  /-- `wait_until(now >= t_sclk_fall + n)`. -/
  | waitFall (n : Nat)
  /-- `dc <- v`. -/
  | setDc (v : Bool)
  /-- `cs_n <- 0`. -/
  | select
  /-- `cs_n <- 1; t_cs_rise <- now`. -/
  | deselect
  /-- `sclk <- 0; mosi <- v`. -/
  | bit (v : Bool)
  /-- `sclk <- 1`. -/
  | sclkHigh
  /-- `sclk <- 0; t_sclk_fall <- now`. -/
  | byteEnd
  /-- `rem <- n`. -/
  | setRem (n : Nat)
  /-- The foot of FILL's loop (41_codec.md R166): `rem <- rem - 1`, and while `rem > 0` the next byte is begun in the
  same segment: `sclk <- 0; mosi <- v; wait(half)`, going on at statement `back`. -/
  | fillAgain (v : Bool) (half back : Nat)
  /-- `rst_n <- v`, a reset event (00_scope.md R17). -/
  | setRstN (v : Bool)
  /-- `elapsed <- 0; idle_cnt <- 0; polls <- 0`. -/
  | pollInit
  /-- The first sample of WAIT_IDLE's loop, up to its sleep (42_busy_wait.md R186). -/
  | sample
  /-- What follows a sleep of WAIT_IDLE: the elapsed time, the bound, and the next sample up to its sleep (R186). -/
  | pollWake
  deriving DecidableEq, Repr

/-- How a statement leaves its segment: the segment goes on, goes on past the next `n` statements, or stops here
(suspended, ended or raised). -/
inductive Flow where
  | go (s : State)
  | skip (n : Nat) (s : State)
  | stop (s : State)

/-- `wait_until(now >= w)` at statement `pc`: nothing when it holds; otherwise the segment ends and the same statement
is looked at again at edge `w`, the first at which it holds, since neither timestamp changes during the wait. -/
def waitUntil (w pc : Nat) (s : State) : Flow :=
  if w ≤ s.now then .go s else .stop (s.suspend w pc)

/-- A busy sample is taken (42_busy_wait.md R186): POLLS counts it, and it adds to the idle samples in a row or
restarts their count (R183). -/
def State.sampled (s : State) : State :=
  { s with polls := s.polls + 1#32, idleCnt := if s.sampleIdle then s.idleCnt + 1 else 0 }

/-- A sleep of `POLL_MS` is added to the elapsed time (R184). -/
def State.slept (s : State) : State := { s with elapsed := s.elapsed + s.cfg.pollMs }

/-- One pass of WAIT_IDLE's loop from `s <- bsync2` to the sleep (R186): on success the op ends; otherwise it sleeps
`POLL_MS` and goes on at statement `pc`. -/
def pollOnce (pc : Nat) (s : State) : State :=
  if s.cfg.debounceN ≤ s.sampled.idleCnt then s.sampled.endOp
  else s.sampled.suspend (s.now + s.cfg.pollMs * s.cfg.tickDiv) pc

/-- What WAIT_IDLE does after a sleep (R184, R186): add `POLL_MS` to the elapsed time and fail with TIMEOUT when it
has reached `TIMEOUT_MS`, without a further sample; otherwise go round the loop. -/
def pollAgain (pc : Nat) (s : State) : State :=
  if s.cfg.timeoutMs ≤ s.slept.elapsed then s.slept.raise .timeout s.cur else pollOnce pc s.slept

/-- What one statement does, `pc` being its own index (R14, R15). `wait(0)` does nothing. -/
def doStmt (pc : Nat) (s : State) : Stmt → Flow
  | .skipIfHigh n => if s.csN then .skip n s else .go s
  | .skipIfLow n => if s.csN then .go s else .skip n s
  | .wait n => if n = 0 then .go s else .stop (s.suspend (s.now + n) (pc + 1))
  | .waitRise n => waitUntil (afterEdge s.tCsRise n) pc s
  | .waitFall n => waitUntil (afterEdge s.tSclkFall n) pc s
  | .setDc v => .go { s with dc := v }
  | .select => .go { s with csN := false }
  | .deselect => .go { s with csN := true, tCsRise := some s.now }
  | .bit v => .go { s with sclk := false, mosi := v }
  | .sclkHigh => .go { s with sclk := true }
  | .byteEnd => .go { s with sclk := false, tSclkFall := some s.now }
  | .setRem n => .go { s with rem := n }
  | .fillAgain v half back =>
    if s.rem - 1 = 0 then .go { s with rem := 0 }
    else .stop ({ s with rem := s.rem - 1, sclk := false, mosi := v }.suspend (s.now + half) back)
  | .setRstN v => .go { s with rstN := v }
  | .pollInit => .go { s with elapsed := 0, idleCnt := 0, polls := 0#32 }
  | .sample => .stop (pollOnce (pc + 1) s)
  | .pollWake => .stop (pollAgain pc s)

/-- Run a segment (R14): the statements `p`, the first of which has index `pc`, the first `skipped` of them passed
over, until one stops the segment; after the last statement the op ends. -/
def runFrom (pc skipped : Nat) (p : List Stmt) (s : State) : State :=
  match p, skipped with
  | [], _ => s.endOp
  | _ :: p, n + 1 => runFrom (pc + 1) n p s
  | st :: p, 0 =>
    match doStmt pc s st with
    | .go s' => runFrom (pc + 1) 0 p s'
    | .skip n s' => runFrom (pc + 1) n p s'
    | .stop s' => s'

/-- Run the segment that is due of micro-program `p`: from the statement the continuation names, and from the first
statement when there is none. -/
def runProgram (p : List Stmt) (s : State) : State :=
  match s.k with
  | none => runFrom 0 0 p s
  | some r => runFrom r.pc 0 (p.drop r.pc) s

/-! ### Framer primitives -/

/-- `close()` (R133). -/
def closeStmts (c : Config) : List Stmt := [.waitFall c.tCsh, .deselect]

/-- `if cs_n = 0: close()`, the auto-close of R135. -/
def autoClose (c : Config) : List Stmt := .skipIfHigh 2 :: closeStmts c

/-- `open(v)` (R131): D/C hold, D/C, D/C setup, minimum CS_N high time, CS_N low, setup to the first bit. -/
def openStmts (c : Config) (v : Bool) : List Stmt :=
  [.waitRise 1, .setDc v, .wait c.tDcs, .waitRise c.tCsw, .select, .wait c.tCss]

/-- `if cs_n = 1: open(1)`, the head of every data op (R137, 41_codec.md R165, R166). -/
def openData (c : Config) : List Stmt := .skipIfLow 6 :: openStmts c true

/-- One bit of `shift` (R132): the low half with the bit on MOSI, then the high half. -/
def bitStmts (c : Config) (v : Bool) : List Stmt := [.bit v, .wait c.sckHalf, .sclkHigh, .wait c.sckHalf]

/-- `shift(b)` (R132): bit 7 first, bit 0 last, then SCLK low. -/
def shiftStmts (c : Config) (b : Byte) : List Stmt :=
  bitStmts c (b.getLsbD 7) ++ bitStmts c (b.getLsbD 6) ++ bitStmts c (b.getLsbD 5) ++ bitStmts c (b.getLsbD 4) ++
  bitStmts c (b.getLsbD 3) ++ bitStmts c (b.getLsbD 2) ++ bitStmts c (b.getLsbD 1) ++ bitStmts c (b.getLsbD 0) ++
  [.byteEnd]

/-- `if LAST = 1: close()`, the foot of every data op. -/
def closeIfLast (c : Config) (last : Bool) : List Stmt := if last then closeStmts c else []

end Sys2Proof.Machine
end

