-- ==== Sys2Proof/Machine/BusyWait.lean ====
section
/-! DEFINITION. The idle wait WAIT_IDLE (spec/42_busy_wait.md R180 to R190). -/

namespace Sys2Proof.Machine

/-- WAIT_IDLE's micro-program (R186): auto-close, the counters to 0, then the loop. -/
def waitidleProgram (c : Config) : List Stmt := autoClose c ++ [.pollInit, .sample, .pollWake]

/-- WAIT_IDLE (R186): sample the busy line every `POLL_MS` until `DEBOUNCE_N` samples in a row are idle, or fail. -/
def execWaitidle (s : State) : Host.Outcome State Fault Refusal := .next (runProgram (waitidleProgram s.cfg) s)

end Sys2Proof.Machine
end

