-- ==== Sys2Proof/Machine/Framer.lean ====
section
/-! DEFINITION. The engine and framer ops NOP, CMD and DATA, and the internal CLOSE (spec/40_framer.md R136 to R141).
A meaning runs the segment of its micro-program that is due (log entry 8). -/

namespace Sys2Proof.Machine

/-- NOP's micro-program is `end` (R139). -/
def nopProgram : List Stmt := []

/-- NOP (R139): do nothing for one cycle. -/
def execNop (s : State) : Host.Outcome State Fault Refusal := .next (runProgram nopProgram s)

/-- CMD's micro-program (R136). -/
def cmdProgram (c : Config) (byte : Byte) : List Stmt :=
  autoClose c ++ openStmts c false ++ shiftStmts c byte ++ closeStmts c

/-- CMD (R136): send one command byte in a transaction of its own, D/C low. -/
def execCmd (byte : Byte) (s : State) : Host.Outcome State Fault Refusal :=
  .next (runProgram (cmdProgram s.cfg byte) s)

/-- The micro-program of an op that sends one data byte (R137, 41_codec.md R165). -/
def sendByteProgram (c : Config) (last : Bool) (b : Byte) : List Stmt :=
  openData c ++ shiftStmts c b ++ closeIfLast c last

/-- DATA's micro-program (R137). -/
def dataProgram (c : Config) (last : Bool) (byte : Byte) : List Stmt := sendByteProgram c last byte

/-- DATA (R137): send one data byte, opening a data transaction when none is open. -/
def execData (last : Bool) (byte : Byte) (s : State) : Host.Outcome State Fault Refusal :=
  .next (runProgram (dataProgram s.cfg last byte) s)

/-- The internal CLOSE's micro-program (R141). -/
def closeProgram (c : Config) : List Stmt := closeStmts c

/-- CLOSE (R141): end the open transaction after an error. It has no op word. -/
def runClose (s : State) : State := runProgram (closeProgram s.cfg) s

end Sys2Proof.Machine
end

