-- ==== Sys2Proof/Machine/Codec.lean ====
section
/-! DEFINITION. The codec ops PIX and FILL (spec/41_codec.md R165, R166). -/

namespace Sys2Proof.Machine

/-- PIX's micro-program (R165). -/
def pixProgram (c : Config) (last : Bool) (left right : Colour) : List Stmt := sendByteProgram c last (pack left right)

/-- PIX (R165): pack two pixels and send the byte as data. -/
def execPix (last : Bool) (left right : Colour) (s : State) : Host.Outcome State Fault Refusal :=
  .next (runProgram (pixProgram s.cfg last left right) s)

/-- FILL's loop (R166) for COUNT not 0: the first byte, then as many more as `rem` says. A byte begun by `fillAgain`
goes on after the first wait of the first byte's `shift`, three statements past `openData`. -/
def fillLoop (c : Config) (b : Byte) : List Stmt :=
  shiftStmts c b ++ [.fillAgain (b.getLsbD 7) c.sckHalf ((openData c).length + 3)]

/-- FILL's micro-program (R166): `rem <- COUNT`, then the loop, which is passed over when COUNT is 0. -/
def fillProgram (c : Config) (count : BitVec 16) (last : Bool) (color : Colour) : List Stmt :=
  openData c ++ [.setRem count.toNat] ++ (if count = 0 then [] else fillLoop c (fillByte color)) ++ closeIfLast c last

/-- FILL (R166): send the packed byte of one colour COUNT times as data. -/
def execFill (count : BitVec 16) (last : Bool) (color : Colour) (s : State) : Host.Outcome State Fault Refusal :=
  .next (runProgram (fillProgram s.cfg count last color) s)

end Sys2Proof.Machine
end

