-- ==== Sys2Proof/Machine/ResetTimer.lean ====
section
/-! DEFINITION. The reset pulse sequencer's RESET and the millisecond timer's DELAY (spec/43_reset_timer.md R200 to
R207). -/

namespace Sys2Proof.Machine

/-- A wait of `n` milliseconds is exactly `n * TICK_DIV` cycles (R200). -/
def waitMs (c : Config) (n : Nat) : Stmt := .wait (n * c.tickDiv)

/-- RESET's micro-program (R201). -/
def resetProgram (c : Config) : List Stmt :=
  autoClose c ++ [.setRstN true, waitMs c c.rstH1Ms, .setRstN false, waitMs c c.rstLMs, .setRstN true, waitMs c c.rstH2Ms]

/-- RESET (R201): drive the panel reset line high, low, high. -/
def execReset (s : State) : Host.Outcome State Fault Refusal := .next (runProgram (resetProgram s.cfg) s)

/-- DELAY's micro-program (R203). -/
def delayProgram (c : Config) (ms : BitVec 20) : List Stmt := autoClose c ++ [waitMs c ms.toNat]

/-- DELAY (R203): wait a number of milliseconds. -/
def execDelay (ms : BitVec 20) (s : State) : Host.Outcome State Fault Refusal :=
  .next (runProgram (delayProgram s.cfg ms) s)

end Sys2Proof.Machine
end

