-- ==== Sys2Proof/Machine/Dispatch.lean ====
section
/-! DEFINITION. One arm per op: the segment of the op's micro-program that is due, run on the state before the edge. -/

namespace Sys2Proof.Machine

def exec (i : Instr) (s : State) : Host.Outcome State Fault Refusal :=
  match i with
  | .nop => Sys2Proof.Machine.execNop s
  | .cmd byte => Sys2Proof.Machine.execCmd byte s
  | .data last byte => Sys2Proof.Machine.execData last byte s
  | .pix last left right => Sys2Proof.Machine.execPix last left right s
  | .fill count last color => Sys2Proof.Machine.execFill count last color s
  | .reset => Sys2Proof.Machine.execReset s
  | .waitidle => Sys2Proof.Machine.execWaitidle s
  | .delay ms => Sys2Proof.Machine.execDelay ms s

end Sys2Proof.Machine
end

