-- ==== Sys2Proof/Machine/Port.lean ====
section
/-! DEFINITION. The host's register port (spec/20_memory.md R70 to R91, spec/10_state.md R34 to R40): what an access
answers in its cycle, and what a write does at the next edge. -/

namespace Sys2Proof.Machine

/-- The readable registers by offset (R34). -/
inductive Reg where
  | ctrl
  | status
  | op
  | errinfo
  | polls
  | pins
  deriving DecidableEq, Repr

/-- The register at an offset; nothing at a misaligned or unmapped offset, which is what R73 calls not legal. -/
def Reg.ofOffset (off : Offset) : Option Reg :=
  match off.toNat with
  | 0x00 => some .ctrl
  | 0x04 => some .status
  | 0x08 => some .op
  | 0x0C => some .errinfo
  | 0x10 => some .polls
  | 0x14 => some .pins
  | _ => none

/-- The offset of a register (R34). -/
def Reg.offset : Reg → Offset
  | .ctrl => 0x00
  | .status => 0x04
  | .op => 0x08
  | .errinfo => 0x0C
  | .polls => 0x10
  | .pins => 0x14

/-- The value of a register read in the cycle of the state (R74); OP reads 0 (R37). -/
def State.regValue (s : State) : Reg → Word
  | .ctrl => s.ctrlValue
  | .status => s.statusValue
  | .op => 0#32
  | .errinfo => s.errinfo
  | .polls => s.polls
  | .pins => s.pinsValue

/-- Whether a write is refused with the error response: an offset that is not legal (R73), or a read-only register
(R78). -/
def writeErr (off : Offset) : Bool :=
  match Reg.ofOffset off with
  | some .ctrl => false
  | some .status => false
  | some .op => false
  | some .errinfo => true
  | some .polls => true
  | some .pins => true
  | none => true

/-- The port's answer in the cycle of an access (R16, 10_state.md R32): `h_rdata` and `h_err` for a read, `h_err` for a
write. `h_rdata` of a write is given where the spec states it, at an offset that is not legal (R73), and is absent
elsewhere (log entry 13). -/
inductive Response where
  | none
  | read (data : Word) (err : Bool)
  | write (data : Option Word) (err : Bool)
  deriving DecidableEq, Repr

/-- `RegRead(off)` during the cycle of the state (R73, R74). -/
def regRead (s : State) (off : Offset) : Response :=
  match Reg.ofOffset off with
  | some r => .read (s.regValue r) false
  | Option.none => .read 0#32 true

/-- `RegWrite(off, v)` during a cycle (R73, R75 to R78): at an offset that is not legal `h_rdata` is 0. The answer depends
on the offset alone. -/
def regWrite (off : Offset) : Response :=
  .write (if Reg.ofOffset off = Option.none then some 0#32 else Option.none) (writeErr off)

/-- The port's answer to an access made in the cycle of the state, `rst_sys` not asserted. -/
def respond (s : State) : Option Access → Response
  | Option.none => .none
  | some (.read off) => regRead s off
  | some (.write off _) => regWrite off

/-- The answer to an access made while `rst_sys` is asserted: it reads 0 (70_reset_and_hazards.md R290), and `h_err` is 1
for the accesses of R73 and R78 and no others (R79; log entry 6). -/
def respondInReset : Option Access → Response
  | Option.none => .none
  | some (.read off) => .read 0#32 (Reg.ofOffset off).isNone
  | some (.write off _) => regWrite off

/-- The value written to a register by the access, when it is a write to that register. -/
def writtenTo (r : Reg) : Option Access → Option Word
  | some (.write off v) => if Reg.ofOffset off = some r then some v else none
  | some (.read _) => none
  | none => none

/-- Whether the host writes STATUS with bit `n` set: bit 4 clears DONE, bit 5 clears ERR (R75). -/
def clears (n : Nat) (a : Option Access) : Bool :=
  match writtenTo .status a with
  | some v => v.getLsbD n
  | none => false

/-- Whether the host flushes the queue: CTRL written with bit 1 set (R76). -/
def hostFlush (a : Option Access) : Bool :=
  match writtenTo .ctrl a with
  | some v => v.getLsbD 1
  | none => false

/-- A CTRL write's fields (R76): EN, IE_DONE and IE_ERR. -/
def State.writeCtrl (s : State) (v : Word) : State :=
  { s with en := v.getLsbD 0, ieDone := v.getLsbD 4, ieErr := v.getLsbD 5 }

/-- What a host access does to the control and flag fields at the edge after its cycle: a CTRL write sets EN and the
enables (R76), a STATUS write clears DONE (R75) and ERR with ERRCODE (R75, R258). The queue is `nextQueue`'s. -/
def hostWrite (a : Option Access) (s : State) : State :=
  let s1 := match writtenTo .ctrl a with
    | some v => s.writeCtrl v
    | none => s
  let s2 := if clears 4 a then { s1 with done := false } else s1
  if clears 5 a then s2.clearError else s2

/-- What becomes of a word offered to OP (R77). -/
inductive Offer where
  | nothing
  | drop
  | overflow (w : Word)
  | push (w : Word)
  deriving DecidableEq, Repr

/-- R77, judged on the state of the cycle of the write: dropped while ERR = 1, OVERFLOW when the queue is full, pushed
otherwise. The word is not decoded. -/
def offer (s : State) (a : Option Access) : Offer :=
  match writtenTo .op a with
  | none => .nothing
  | some w => if s.err then .drop else if s.q.length = s.cfg.qdepth then .overflow w else .push w

/-- The access that an absolute address makes, when it lies in the window at `BASE` (00_scope.md R16, R34). -/
def offsetOf (c : Config) (address : Nat) : Option Offset :=
  if c.base ≤ address ∧ address < c.base + 0x20 then some (BitVec.ofNat 5 (address - c.base)) else none

end Sys2Proof.Machine
end

