-- ==== Sys2Proof/Machine/Edge.lean ====
section
/-! DEFINITION. One rising clock edge τ of the whole block, from `S_{τ-1}` and what the environment does during cycle
τ-1 to `S_τ` (spec/00_scope.md R13): the host's write, the engine's segment, the errors, the queue, the dispatch rule
of spec/40_framer.md R130, DONE, the synchronizer, and block reset over all. -/

namespace Sys2Proof.Machine

/-- Whether a segment runs at the edge: a micro-program is running and its wake edge has come (R15, R43). -/
def State.due (s : State) : Bool :=
  match s.k with
  | none => false
  | some r => Nat.ble r.wake s.now

/-- A word that is not legal, dispatched: its only segment is `raise ILLEGAL_OP(w)` (R130, 60_exceptions.md R253). -/
def illegalOp (s : State) : State := s.raise .illegalOp s.cur

/-- The segment the engine runs at the edge, if one is due. `cur` is decoded here, once it has been dispatched (R130):
a legal word runs its op's micro-program, any other raises ILLEGAL_OP. -/
def runSegment (s : State) : Host.Outcome State Fault Refusal :=
  match s.eng with
  | .idle => .next s
  | .close => if s.due then .next (runClose s) else .next s
  | .exec =>
    if s.due then
      match decode s.cur with
      | some i => exec i s
      | none => .next (illegalOp s)
    else .next s

/-- Whether the engine is free at the edge (R130): no op was running in `S_{τ-1}` (`before`), or the one running ended
or raised in the segment that left `after`. -/
def engineFree (before after : State) : Bool := before.eng == .idle || after.k.isNone

/-- Whether the segment that ran raised an error: only `raise` leaves an engine that was running idle. -/
def engineRaised (before after : State) : Bool := before.eng != .idle && after.eng == .idle

/-- `flush_τ` of R130: a CTRL flush written during cycle τ-1, or an error raised at τ, by the engine or by OVERFLOW. -/
def flushAt (before after : State) (a : Option Access) : Bool :=
  hostFlush a || engineRaised before after ||
    match offer before a with
    | .overflow _ => true
    | .nothing => false
    | .drop => false
    | .push _ => false

/-- OVERFLOW (60_exceptions.md R254): it is raised beside whatever the engine does. The engine's error of the same
edge has been recorded before it, so that it wins (R262). -/
def raiseOverflow (before : State) (a : Option Access) (s : State) : State :=
  match offer before a with
  | .overflow w => s.recordError .overflow w
  | .nothing => s
  | .drop => s
  | .push _ => s

/-- What the engine starts at an edge at which it is free (R130). -/
inductive Start where
  | nothing
  | close
  | op (w : Word)
  deriving DecidableEq, Repr

/-- The dispatch rule of R130. It reads ERR, EN and the queue of `S_{τ-1}` (`before`) and CS_N as the segment left it
(`after`). -/
def dispatchChoice (before after : State) (flush : Bool) : Start :=
  if flush then .nothing
  else if before.err then (if after.csN then .nothing else .close)
  else if before.en then
    match before.q with
    | [] => .nothing
    | w :: _ => .op w
  else .nothing

/-- The engine after the dispatch rule (R130): nothing changes unless it is free; what is started runs its first
segment at the next edge. -/
def dispatchOp (free : Bool) (start : Start) (s : State) : State :=
  if free then
    match start with
    | .nothing => { s with eng := .idle, k := none }
    | .close => { s with eng := .close, k := some ⟨s.now + 1, 0⟩ }
    | .op w => { s with eng := .exec, cur := w, k := some ⟨s.now + 1, 0⟩ }
  else s

/-- The queue after the edge (10_state.md R42): empty on a flush, which also loses a word pushed at the same edge
(R262); otherwise without the head if it was dispatched and with the pushed word at the tail. -/
def nextQueue (q : List Word) (flush dispatched : Bool) (o : Offer) : List Word :=
  if flush then []
  else
    (if dispatched then q.tail else q) ++
      match o with
      | .push w => [w]
      | .nothing => []
      | .drop => []
      | .overflow _ => []

/-- DONE after the edge (60_exceptions.md R266): set when the block becomes idle with ERR = 0. -/
def setDone (before : State) (s : State) : State :=
  if s.isIdle && !before.isIdle && !s.err then { s with done := true } else s

/-- What passes at every edge whatever the engine does: the synchronizer (R46), the cycle index, the environment's
record of the cycle. -/
def State.tick (busy : Bool) (s : State) : State :=
  { s with
    bsync1 := busy
    bsync2 := s.bsync1
    cycle := s.cycle + 1
    inputs := s.inputs.tail
    draws := s.draws + 1 }

/-- Block reset (70_reset_and_hazards.md R290): every field of R33 at the value of R60; the parameters and what the
environment will do are not the block's to reset, and the cycles are counted anew (log entry 5). -/
def State.blockReset (s : State) : State :=
  { State.reset with cfg := s.cfg, inputs := s.inputs.tail, draws := s.draws + 1 }

/-- Everything that happens at an edge after the engine's segment, which turned `before` with the host's write into
`after`. -/
def finishEdge (inp : Input) (before after : State) : State :=
  let flush := flushAt before after inp.access
  let free := engineFree before after
  let start := dispatchChoice before after flush
  let dispatched := free && match start with
    | .op _ => true
    | .nothing => false
    | .close => false
  let s1 := dispatchOp free start (raiseOverflow before inp.access after)
  let s2 := { s1 with q := nextQueue before.q flush dispatched (offer before inp.access) }
  (setDone before s2).tick inp.busy

/-- One clock edge (R13): block reset overrides everything (R262); otherwise the host's write, the engine's segment,
and the rest. -/
def clockEdge (inp : Input) (s : State) : Host.Outcome State Fault Refusal :=
  if inp.rst then .next s.blockReset
  else
    match runSegment (hostWrite inp.access s) with
    | .next after => .next (finishEdge inp s after)
    | .fault f => .fault f
    | .refused r => .refused r

/-- What the environment does during the cycle of the state: the first listed input, and past the list no reset, no
access and a free level of `busy_in` (log entry 2). -/
def State.input (s : State) : Input :=
  match s.inputs with
  | [] => ⟨false, none, Config.freeBusy s.draws⟩
  | i :: _ => i

/-- The pins of the block in one cycle (R32, R44, R45). -/
structure Pins where
  csN : Bool
  dc : Bool
  sclk : Bool
  mosi : Bool
  rstN : Bool
  deriving DecidableEq, Repr

/-- The state as it shows during its cycle: that of R60 while `rst_sys` is asserted, which acts at once
(70_reset_and_hazards.md R290, R292; log entry 5). -/
def State.shown (s : State) : State := if s.input.rst then { State.reset with cfg := s.cfg } else s

/-- The levels of the pins during the cycle of the state. -/
def State.pins (s : State) : Pins := ⟨s.shown.csN, s.shown.dc, s.shown.sclk, s.shown.mosi, s.shown.rstN⟩

/-- The level of `irq` during the cycle of the state (60_exceptions.md R265). -/
def State.irqPin (s : State) : Bool := s.shown.irq

/-- What the port answers during the cycle of the state. -/
def State.response (s : State) : Response :=
  if s.input.rst then respondInReset s.input.access else respond s s.input.access

end Sys2Proof.Machine
end

