-- ==== Sys2Proof/Machine/Step.lean ====
section
/-! DEFINITION. The step of the machine: one clock edge with what the environment does during the cycle
(spec/00_scope.md R13), and where an instruction's word is placed for the next step to run it. -/

namespace Sys2Proof.Machine

/-- `S_τ = step(S_{τ-1}, inputs during cycle τ-1)` (R13). A block whose parameters lie outside the ranges of R9 is not
one the spec defines. -/
def step (s : State) : Host.Outcome State Fault Refusal :=
  if s.cfg.Valid then clockEdge s.input s else .fault .parameterOutOfRange

/-- The state in which the word `w` has just been dispatched, so that the next step runs the first segment of its op:
the engine is in EXEC with `cur` the word and its micro-program starting at the next edge (R130; log entry 8). -/
def State.withFetchWord (s : State) (nbits w : Nat) : State :=
  { s with eng := .exec, cur := BitVec.ofNat 32 (w % 2 ^ nbits), k := some ⟨s.cycle + 1, 0⟩ }

end Sys2Proof.Machine
end

