-- ==== Sys2Proof/Machine/HostPrograms.lean ====
section
/-! DEFINITION. The host programs of spec/44_host_sequences.md (R220 to R238) as the sequences of ops and port actions
a host must make, and the frame layout. They add nothing to the block's state or step. -/

namespace Sys2Proof.Machine

/-- What a host program does at the port: write CTRL or STATUS, write an op word, wait until STATUS shows IDLE or ERR
(30_encoding.md R121 `start` and `sync`), or read a register. -/
inductive HostAction where
  | ctrl (v : Word)
  | status (v : Word)
  | op (w : Word)
  | sync
  | read (off : Offset)
  deriving DecidableEq, Repr

/-- The panel constants the spec leaves OPEN (00_scope.md R10, 92_eei_decisions.md D38): arguments of the programs. -/
structure PanelTable where
  /-- `INIT_TABLE`: opcodes with their parameter bytes, in order. -/
  initTable : List (Byte × List Byte)
  /-- `OPC_DTM`: the opcode of "start data transmission". -/
  opcDtm : Byte
  /-- `P06[0..3]`. -/
  p06 : Byte × Byte × Byte × Byte
  /-- `P07`. -/
  p07 : Byte
  deriving DecidableEq, Repr

/-- Every INIT_TABLE entry has at least one parameter byte (R225). -/
def PanelTable.wf (p : PanelTable) : Bool := p.initTable.all fun e => !e.2.isEmpty

/-! ### Pseudo-ops (30_encoding.md R121) -/

/-- `send B0, ..., Bn-1` for n ≥ 1: LAST on the last byte only. There is no zero-length data transaction. -/
def sendOps : List Byte → List Instr
  | [] => []
  | [b] => [.data true b]
  | b :: b' :: bs => .data false b :: sendOps (b' :: bs)

/-- `cmdd OPC, B0, ..., Bn-1` for n ≥ 1: a command, then its parameters as one data transaction. -/
def cmddOps (opc : Byte) (bs : List Byte) : List Instr := .cmd opc :: sendOps bs

/-- `row C`: one flood-fill row. -/
def rowOps (c : Colour) : List Instr := [.fill (BitVec.ofNat 16 ROW_BYTES) true c]

/-- `start`: CTRL = 0x0000_0001. -/
def startAction : HostAction := .ctrl 0x00000001

/-- The host's return from an error, which it owes before its next call (R237, 60_exceptions.md R258): STATUS written
with bit 5 set. -/
def clearAction : HostAction := .status 0x00000020

/-! ### Programs -/

/-- The init program (R225). -/
def initOps (p : PanelTable) : List Instr :=
  [.reset, .waitidle, .delay (BitVec.ofNat 20 SETTLE_MS)] ++
  p.initTable.flatMap (fun e => cmddOps e.1 e.2) ++ [.cmd OPC_PON, .waitidle]

/-- The refresh program, four phases (R227): 14 op words. -/
def refreshOps (p : PanelTable) : List Instr :=
  [.cmd OPC_PON, .waitidle] ++
  cmddOps OPC_TIMING [p.p06.1, p.p06.2.1, p.p06.2.2.1, p.p06.2.2.2] ++ [.waitidle] ++
  cmddOps OPC_REFRESH [P12] ++ [.waitidle] ++
  cmddOps OPC_POF [P02] ++ [.waitidle]

/-- The rows of a frame buffer in order, `n` of them. -/
def rowsOf : Nat → List Byte → List (List Byte)
  | 0, _ => []
  | n + 1, buf => buf.take ROW_BYTES :: rowsOf n (buf.drop ROW_BYTES)

/-- The full-buffer transfer (R230): a buffer of another length than `FRAME_BYTES` is rejected before the first op
word. Each row is one `send`. -/
def transferOps (p : PanelTable) (buf : List Byte) : Option (List Instr) :=
  if buf.length = FRAME_BYTES then
    some ([.cmd p.opcDtm] ++ (rowsOf HEIGHT buf).flatMap sendOps ++ refreshOps p)
  else none

/-- The flood fill with one colour (R231). -/
def floodOps (p : PanelTable) (c : Colour) : List Instr :=
  [.cmd p.opcDtm] ++ (List.replicate HEIGHT (rowOps c)).flatten ++ refreshOps p

/-- The rows of a striped pattern: each range runs from the end of the one before to the row given, with its colour.
An empty range gives no row. The ends must not fall, and the last is `HEIGHT`, or the rows are not those of a frame
(DEDUCED, log entry 16). -/
def stripeRows : Nat → List (Nat × Colour) → Option (List Colour)
  | y, [] => if y = HEIGHT then some [] else none
  | y, (y', c) :: rest =>
    if y ≤ y' ∧ y' ≤ HEIGHT then (stripeRows y' rest).map (List.replicate (y' - y) c ++ ·) else none

/-- The striped pattern (R232): the flood fill with the colour of each row's range; the ranges are arguments. -/
def stripeOps (p : PanelTable) (ranges : List (Nat × Colour)) : Option (List Instr) :=
  (stripeRows 0 ranges).map fun cs => [.cmd p.opcDtm] ++ cs.flatMap rowOps ++ refreshOps p

/-- The deep-sleep program (R234): no wait follows. -/
def sleepOps (p : PanelTable) : List Instr := cmddOps OPC_SLEEP [p.p07]

/-- One of the document's blocking calls (R220): the op words of its sequence, then `sync`. -/
def callOf (ops : List Instr) : List HostAction := ops.map (fun i => .op (encode i)) ++ [.sync]

/-- The boot call (70_reset_and_hazards.md R295, R224): `start`, then `init`. DESIGN CHOICE (log entry 17): it takes
neither of R295's optional steps, 1 (IE_DONE and IE_ERR written first) and 2 (op words queued before EN = 1). -/
def bootCall (p : PanelTable) : List HostAction := startAction :: callOf (initOps p)

/-! ### Frame layout (R229) -/

/-- The row of a byte of a frame buffer, row 0 at the top. -/
def frameRow (i : Nat) : Nat := i / ROW_BYTES

/-- The column of the left pixel of a byte of a frame buffer; the right one is the next column. -/
def frameColumn (i : Nat) : Nat := 2 * (i % ROW_BYTES)

/-- The index of the byte that holds a pixel. -/
def frameIndex (x y : Nat) : Nat := y * ROW_BYTES + x / 2

/-- The frame buffer of an image given by row and column. -/
def frameOf (image : Nat → Nat → Colour) : List Byte :=
  (List.range FRAME_BYTES).map fun i =>
    pack (image (frameRow i) (frameColumn i)) (image (frameRow i) (frameColumn i + 1))

/-- Codes of which no source says what the panel shows (R233). -/
def shownCode (c : Colour) : Bool := c != 0b100 && c != 0b111

/-- A frame whose result may be claimed as a displayed image (R230, R233): of the right length, two visible codes in
every byte. -/
def imageClaimable (buf : List Byte) : Bool :=
  buf.length == FRAME_BYTES && buf.all fun b =>
    match unpack b with
    | some (l, r) => shownCode l && shownCode r
    | none => false

end Sys2Proof.Machine
end

