-- ==== Sys2Proof/Machine/Assembler.lean ====
section
/-! DEFINITION. The assembler syntax of spec/30_encoding.md R120 and the pseudo-ops of R121, over lists of
characters: one line to one abstract instruction, and from there to host actions, refusing a field out of range. -/

namespace Sys2Proof.Machine

/-- A line of assembly with its operands as numbers, the ranges not yet checked (R120, R121). -/
inductive Asm where
  | nop
  | cmd (b : Nat)
  | data (last : Bool) (b : Nat)
  | pix (last : Bool) (left right : Nat)
  | fill (last : Bool) (color count : Nat)
  | reset
  | waitidle
  | delay (ms : Nat)
  | cmdd (opc : Nat) (bs : List Nat)
  | send (bs : List Nat)
  | row (color : Nat)
  | sync
  | start
  deriving DecidableEq, Repr

/-- A byte operand (R120: BYTE > 255 is refused). -/
def asmByte (n : Nat) : Option Byte := if n ≤ 255 then some (BitVec.ofNat 8 n) else none

/-- A colour operand (R120: colour > 7 is refused). -/
def asmColour (n : Nat) : Option Colour := if n ≤ 7 then some (BitVec.ofNat 3 n) else none

/-- Byte operands, every one in range. -/
def asmBytes : List Nat → Option (List Byte)
  | [] => some []
  | n :: ns =>
    match asmByte n, asmBytes ns with
    | some b, some bs => some (b :: bs)
    | some _, none => none
    | none, _ => none

/-- The ops of a line other than `sync` and `start`; nothing when a field is out of range (R120), or a `cmdd` or
`send` has no byte (R121). -/
def asmOps : Asm → Option (List Instr)
  | .nop => some [.nop]
  | .cmd b => (asmByte b).map fun b => [.cmd b]
  | .data last b => (asmByte b).map fun b => [.data last b]
  | .pix last l r => (asmColour l).bind fun l => (asmColour r).map fun r => [.pix last l r]
  | .fill last c n =>
    (asmColour c).bind fun c => if 1 ≤ n ∧ n ≤ 65535 then some [.fill (BitVec.ofNat 16 n) last c] else none
  | .reset => some [.reset]
  | .waitidle => some [.waitidle]
  | .delay ms => if ms ≤ 1048575 then some [.delay (BitVec.ofNat 20 ms)] else none
  | .cmdd opc bs =>
    (asmByte opc).bind fun opc => (asmBytes bs).bind fun bs => if bs.isEmpty then none else some (cmddOps opc bs)
  | .send bs => (asmBytes bs).bind fun bs => if bs.isEmpty then none else some (sendOps bs)
  | .row c => (asmColour c).map rowOps
  | .sync => none
  | .start => none

/-- What a line makes the host do (R120, R121). -/
def assemble : Asm → Option (List HostAction)
  | .sync => some [.sync]
  | .start => some [startAction]
  | .nop => (asmOps .nop).map (·.map fun i => .op (encode i))
  | .cmd b => (asmOps (.cmd b)).map (·.map fun i => .op (encode i))
  | .data last b => (asmOps (.data last b)).map (·.map fun i => .op (encode i))
  | .pix last l r => (asmOps (.pix last l r)).map (·.map fun i => .op (encode i))
  | .fill last c n => (asmOps (.fill last c n)).map (·.map fun i => .op (encode i))
  | .reset => (asmOps .reset).map (·.map fun i => .op (encode i))
  | .waitidle => (asmOps .waitidle).map (·.map fun i => .op (encode i))
  | .delay ms => (asmOps (.delay ms)).map (·.map fun i => .op (encode i))
  | .cmdd opc bs => (asmOps (.cmdd opc bs)).map (·.map fun i => .op (encode i))
  | .send bs => (asmOps (.send bs)).map (·.map fun i => .op (encode i))
  | .row c => (asmOps (.row c)).map (·.map fun i => .op (encode i))

/-! ### Text (log entry 10) -/

/-- White space inside a line. -/
def isBlank (c : Char) : Bool := c == ' ' || c == '\t'

/-- Without white space at either end. -/
def trimBlanks (cs : List Char) : List Char := ((cs.dropWhile isBlank).reverse.dropWhile isBlank).reverse

/-- The pieces between commas. -/
def splitCommas : List Char → List (List Char)
  | [] => [[]]
  | c :: cs =>
    match splitCommas cs with
    | [] => [[c]]
    | p :: ps => if c == ',' then [] :: p :: ps else (c :: p) :: ps

/-- The value of a digit in base 10 or 16. -/
def digitValue (hex : Bool) (c : Char) : Option Nat :=
  if '0' ≤ c ∧ c ≤ '9' then some (c.toNat - 48)
  else if hex ∧ 'a' ≤ c ∧ c ≤ 'f' then some (c.toNat - 87)
  else if hex ∧ 'A' ≤ c ∧ c ≤ 'F' then some (c.toNat - 55)
  else none

/-- The value of a string of digits, `acc` being that of the digits before. -/
def digitsValue (hex : Bool) (acc : Nat) : List Char → Option Nat
  | [] => some acc
  | c :: cs =>
    match digitValue hex c with
    | some d => digitsValue hex ((if hex then 16 else 10) * acc + d) cs
    | none => none

/-- A number, decimal or `0x` hexadecimal (R120). -/
def parseNumber : List Char → Option Nat
  | [] => none
  | '0' :: 'x' :: [] => none
  | '0' :: 'x' :: c :: cs => digitsValue true 0 (c :: cs)
  | cs => digitsValue false 0 cs

/-- A colour: a name of R120 or a number. -/
def parseColour (cs : List Char) : Option Nat :=
  if cs = ['b', 'l', 'a', 'c', 'k'] then some 0
  else if cs = ['w', 'h', 'i', 't', 'e'] then some 1
  else if cs = ['y', 'e', 'l', 'l', 'o', 'w'] then some 2
  else if cs = ['r', 'e', 'd'] then some 3
  else if cs = ['b', 'l', 'u', 'e'] then some 5
  else if cs = ['g', 'r', 'e', 'e', 'n'] then some 6
  else if cs = ['c', 'l', 'e', 'a', 'n'] then some 7
  else parseNumber cs

/-- The numbers of a list of operands. -/
def parseNumbers : List (List Char) → Option (List Nat)
  | [] => some []
  | o :: os =>
    match parseNumber o, parseNumbers os with
    | some n, some ns => some (n :: ns)
    | some _, none => none
    | none, _ => none

/-- One line without its comment and outer white space: a mnemonic, then its operands between commas. -/
def parseStatement (cs : List Char) : Option Asm :=
  let word := cs.takeWhile fun c => !isBlank c
  let rest := trimBlanks (cs.dropWhile fun c => !isBlank c)
  let operands := if rest.isEmpty then [] else (splitCommas rest).map trimBlanks
  match word, operands with
  | ['n', 'o', 'p'], [] => some .nop
  | ['c', 'm', 'd'], [b] => (parseNumber b).map .cmd
  | ['d', 'a', 't', 'a'], [b] => (parseNumber b).map (.data false)
  | ['d', 'a', 't', 'a', '.', 'l'], [b] => (parseNumber b).map (.data true)
  | ['p', 'i', 'x'], [l, r] => (parseColour l).bind fun l => (parseColour r).map (.pix false l)
  | ['p', 'i', 'x', '.', 'l'], [l, r] => (parseColour l).bind fun l => (parseColour r).map (.pix true l)
  | ['f', 'i', 'l', 'l'], [c, n] => (parseColour c).bind fun c => (parseNumber n).map (.fill false c)
  | ['f', 'i', 'l', 'l', '.', 'l'], [c, n] => (parseColour c).bind fun c => (parseNumber n).map (.fill true c)
  | ['r', 'e', 's', 'e', 't'], [] => some .reset
  | ['w', 'a', 'i', 't', 'i', 'd', 'l', 'e'], [] => some .waitidle
  | ['d', 'e', 'l', 'a', 'y'], [n] => (parseNumber n).map .delay
  | ['c', 'm', 'd', 'd'], o :: os => (parseNumber o).bind fun o => (parseNumbers os).map (.cmdd o)
  | ['s', 'e', 'n', 'd'], os => (parseNumbers os).map .send
  | ['r', 'o', 'w'], [c] => (parseColour c).map .row
  | ['s', 'y', 'n', 'c'], [] => some .sync
  | ['s', 't', 'a', 'r', 't'], [] => some .start
  | _, _ => none

/-- One line of assembly (R120): `;` starts a comment, an empty line is no instruction. The outer `none` is a line
that is refused. -/
def parseLine (line : List Char) : Option (Option Asm) :=
  let cs := trimBlanks (line.takeWhile fun c => c != ';')
  if cs.isEmpty then some none else (parseStatement cs).map some

end Sys2Proof.Machine
end

