-- ==== Sys2Proof/Machine/HostAgent.lean ====
section
/-! DEFINITION. A host that runs one call after another on the block under the rules of spec/44_host_sequences.md R220
to R223, flow control by STATUS, completion by `sync`, abort on an error response, and under the duties of R237 between
two calls. The host is an agent outside the block; it is put in a closed loop with the block's clock edge. -/

namespace Sys2Proof.Machine

/-- The result of a call (R220): the document's two errors, and the two faults of a host program. -/
inductive CallResult where
  | success
  | timeout
  | busError
  | illegalOp
  | overflow
  deriving DecidableEq, Repr

/-- What the host does now: go on with the call, write the flush that follows an error response, or nothing more. -/
inductive HostPhase where
  | running
  | flushing
  | done (r : CallResult)
  deriving DecidableEq, Repr

/-- A host in the middle of a call. -/
structure HostState where
  /-- The whole call. -/
  call : List HostAction
  /-- The actions not yet made. -/
  todo : List HostAction
  /-- How many actions are known to be over, their op words having run to their end: `ranCount` when STATUS last showed
  ERR = 0. An op word that an error flushed, or that was dropped while ERR was 1, was written after them (R237,
  60_exceptions.md R256). -/
  sure : Nat
  /-- OP writes that cannot overflow, from the last STATUS read (R221). -/
  credit : Nat
  /-- The value it last wrote to CTRL, which a flush keeps (R222). -/
  ctrl : Word
  phase : HostPhase
  deriving DecidableEq, Repr

/-- A host that starts a call, CTRL holding `ctrl`. -/
def HostState.begin (ctrl : Word) (call : List HostAction) : HostState :=
  ⟨call, call, 0, 0, ctrl, .running⟩

/-- How many actions of the call have been made. -/
def HostState.made (h : HostState) : Nat := h.call.length - h.todo.length

/-- Whether an action writes an op word. -/
def HostAction.isOp : HostAction → Bool
  | .op _ => true
  | .ctrl _ => false
  | .status _ => false
  | .sync => false
  | .read _ => false

/-- Actions made, newest first, without the last `n` op words and what came after them. -/
def withoutOps : Nat → List HostAction → List HostAction
  | 0, as => as
  | _ + 1, [] => []
  | n + 1, a :: as => if a.isOp then withoutOps n as else withoutOps (n + 1) as

/-- How many of the actions made are over when STATUS shows ERR = 0 and `n` op words still in the queue or running: the
engine runs them in order (R221, 20_memory.md R85). -/
def HostState.ranCount (h : HostState) (n : Nat) : Nat := (withoutOps n (h.call.take h.made).reverse).length

/-- The op words still in the queue or running, by STATUS: QCOUNT, and one more if ACTIVE. -/
def unfinished (st : Word) : Nat := (st.extractLsb' 16 8).toNat + if st.getLsbD 1 then 1 else 0

/-- Whether the host has to clear ERR before it goes on: its last call did not succeed. -/
def HostState.mustClear (h : HostState) : Bool :=
  match h.phase with
  | .done .success => false
  | .done .timeout => true
  | .done .busError => true
  | .done .illegalOp => true
  | .done .overflow => true
  | .running => false
  | .flushing => false

/-- The next call of a host whose call has ended: ERR is cleared first if the last one failed (R237,
60_exceptions.md R258). One call at a time (R223): nothing before the end. Which call may be the next is told by
`Session.next` of `HostSession`, from the results so far (70_reset_and_hazards.md R295). -/
def HostState.nextCall (h : HostState) (call : List HostAction) : Option HostState :=
  match h.phase with
  | .done _ => some (.begin h.ctrl (if h.mustClear then clearAction :: call else call))
  | .running => none
  | .flushing => none

/-- The host writes its failed call again from a point it chooses (60_exceptions.md R258). Every op word that was dropped
while ERR was 1 must be among those written again (R237), and this host writes those again too that were flushed or
may not have run: the point may not lie past the actions known to be over (log entry 11). -/
def HostState.writeAgain (h : HostState) (point : Nat) : Option HostState :=
  if h.mustClear ∧ point ≤ h.sure then h.nextCall (h.call.drop point) else none

/-- The access the host makes in this cycle: an op word only while it has credit, otherwise a STATUS read (R221);
`sync` is STATUS reads (30_encoding.md R121); after an error response one CTRL write with FLUSH (R222). -/
def HostState.access (h : HostState) : Option Access :=
  match h.phase with
  | .done _ => none
  | .flushing => some (.write Reg.ctrl.offset (h.ctrl ||| 0x00000002))
  | .running =>
    match h.todo with
    | [] => none
    | .ctrl v :: _ => some (.write Reg.ctrl.offset v)
    | .status v :: _ => some (.write Reg.status.offset v)
    | .op w :: _ => some (if h.credit = 0 then .read Reg.status.offset else .write Reg.op.offset w)
    | .sync :: _ => some (.read Reg.status.offset)
    | .read off :: _ => some (.read off)

/-- The call's failure by ERRCODE (R220). -/
def resultOfCode (code : BitVec 3) : CallResult :=
  if code = ErrorKind.timeout.code then .timeout
  else if code = ErrorKind.illegalOp.code then .illegalOp
  else .overflow

/-- What a STATUS value tells a running host: an error ends the call with its first failure unchanged (R220, R222);
otherwise `sync` ends when IDLE is 1, and a pending op word gets the free queue places as credit (R221). -/
def HostState.onStatus (h : HostState) (qdepth : Nat) (st : Word) : HostState :=
  if st.getLsbD 5 then { h with phase := .done (resultOfCode (st.extractLsb' 8 3)) }
  else
    match h.todo with
    | [] => { h with phase := .done .success }
    | .sync :: rest =>
      if st.getLsbD 0 then
        { h with
          todo := rest, sure := h.ranCount (unfinished st), credit := 0
          phase := if rest.isEmpty then .done .success else .running }
      else { h with sure := h.ranCount (unfinished st) }
    | .op _ :: _ =>
      { h with sure := h.ranCount (unfinished st), credit := qdepth - (st.extractLsb' 16 8).toNat }
    | .ctrl _ :: _ => h
    | .status _ :: _ => h
    | .read _ :: _ => h

/-- The host after a read that got no error response: a read of its own is over, any other is a STATUS read. -/
def HostState.onRead (h : HostState) (qdepth : Nat) (data : Word) : HostState :=
  match h.todo with
  | .read _ :: rest => { h with todo := rest }
  | .ctrl _ :: _ => h.onStatus qdepth data
  | .status _ :: _ => h.onStatus qdepth data
  | .op _ :: _ => h.onStatus qdepth data
  | .sync :: _ => h.onStatus qdepth data
  | [] => h.onStatus qdepth data

/-- The host after a write that got no error response. -/
def HostState.onWritten (h : HostState) : HostState :=
  match h.todo with
  | .ctrl v :: rest => { h with todo := rest, ctrl := v }
  | .status _ :: rest => { h with todo := rest }
  | .op _ :: rest => { h with todo := rest, credit := h.credit - 1 }
  | .sync :: _ => h
  | .read _ :: _ => h
  | [] => h

/-- The host after the port's answer: an error response makes it flush and fail with `BusError` (R222); nothing is
retried. A call with nothing left to do has succeeded. -/
def HostState.answered (h : HostState) (qdepth : Nat) (r : Response) : HostState :=
  match h.phase with
  | .done _ => h
  | .flushing => { h with phase := .done .busError }
  | .running =>
    match r with
    | .none => { h with phase := .done .success }
    | .read _ true => { h with phase := .flushing }
    | .write _ true => { h with phase := .flushing }
    | .read data false => h.onRead qdepth data
    | .write _ false => h.onWritten

/-- One cycle of host and block together, `busy` being the level of `busy_in` in it. -/
def loopEdge (busy : Bool) (h : HostState) (s : State) : HostState × Host.Outcome State Fault Refusal :=
  (h.answered s.cfg.qdepth (respond s h.access), clockEdge ⟨false, h.access, busy⟩ s)

/-- As many cycles of the loop as levels of `busy_in` are given, stopping at a fault or refusal. -/
def loopRun : List Bool → HostState → State → HostState × Host.Outcome State Fault Refusal
  | [], h, s => (h, .next s)
  | b :: bs, h, s =>
    match loopEdge b h s with
    | (h', .next s') => loopRun bs h' s'
    | (h', .fault f) => (h', .fault f)
    | (h', .refused r) => (h', .refused r)

end Sys2Proof.Machine
end

