-- ==== Sys2Proof/Machine/HostDuties.lean ====
section
/-! DEFINITION. The order a host must keep (spec/44_host_sequences.md R224, R225, R230, R235 to R237,
70_reset_and_hazards.md R298, R299): the lifecycle over whole calls, and a checker over op sequences that follows the
panel's needs op by op (log entry 12). -/

namespace Sys2Proof.Machine

/-! ### The lifecycle over calls (R224) -/

/-- The calls of the document's control flow: `init`, the frame operations (R230 to R232), and deep sleep. -/
inductive Call where
  | init
  | flood (c : Colour)
  | stripes (ranges : List (Nat × Colour))
  | transfer (buf : List Byte)
  | deepSleep
  deriving DecidableEq, Repr

/-- The ops of a call; nothing when its arguments are refused (R225, R230, R232). -/
def Call.ops (p : PanelTable) : Call → Option (List Instr)
  | .init => if p.wf then some (initOps p) else none
  | .flood c => some (floodOps p c)
  | .stripes ranges => stripeOps p ranges
  | .transfer buf => transferOps p buf
  | .deepSleep => some (sleepOps p)

/-- Where the panel's life stands: before an `init` that succeeds, after it, after a frame operation that failed, or
asleep. -/
inductive Life where
  | fresh
  | ready
  | failed
  | asleep
  deriving DecidableEq, Repr

/-- The lifecycle, for a call that succeeds: `init` once, then frame operations, and deep sleep last (R224); after it a
frame operation needs `init` again (R236). After a failed frame operation the host goes on where it chooses
(60_exceptions.md R258, log entry 15). What a call that fails leaves is `Life.ended`'s. -/
def Life.after : Life → Call → Option Life
  | .fresh, .init => some .ready
  | .asleep, .init => some .ready
  | .ready, .init => none
  | .ready, .flood _ => some .ready
  | .ready, .stripes _ => some .ready
  | .ready, .transfer _ => some .ready
  | .ready, .deepSleep => some .asleep
  | .failed, .init => some .ready
  | .failed, .flood _ => some .ready
  | .failed, .stripes _ => some .ready
  | .failed, .transfer _ => some .ready
  | .failed, .deepSleep => some .asleep
  | .fresh, .flood _ => none
  | .fresh, .stripes _ => none
  | .fresh, .transfer _ => none
  | .fresh, .deepSleep => none
  | .asleep, .flood _ => none
  | .asleep, .stripes _ => none
  | .asleep, .transfer _ => none
  | .asleep, .deepSleep => none

/-- The ops of the calls of a session in which every call succeeds, call by call; nothing when the lifecycle is
broken or a call is refused. -/
def sessionOps (p : PanelTable) : Life → List Call → Option (List (List Instr))
  | _, [] => some []
  | l, c :: cs =>
    match l.after c, c.ops p with
    | some l', some ops => (sessionOps p l' cs).map (ops :: ·)
    | some _, none => none
    | none, _ => none

/-- What the host does in such a session from block reset on: `start`, then one call after the other (R224, R220,
70_reset_and_hazards.md R295, its optional steps left out: log entry 17). -/
def session (p : PanelTable) (calls : List Call) : Option (List (List HostAction)) :=
  (sessionOps p .fresh calls).map fun opss => [startAction] :: opss.map callOf

/-! ### What the panel needs next, op by op -/

/-- The bytes a data op sends, by their number, and its LAST. -/
def dataCount : Instr → Option (Nat × Bool)
  | .data last _ => some (1, last)
  | .pix last _ _ => some (1, last)
  | .fill count last _ => some (count.toNat, last)
  | .nop => none
  | .cmd _ => none
  | .reset => none
  | .waitidle => none
  | .delay _ => none

/-- A data op of one byte as the DATA that is the same on the wire (R230, 41_codec.md R166). -/
def asData : Instr → Instr
  | .pix last l r => .data last (pack l r)
  | .fill count last c => if count = 1 then .data last (fillByte c) else .fill count last c
  | .data last b => .data last b
  | .cmd b => .cmd b
  | .nop => .nop
  | .reset => .reset
  | .waitidle => .waitidle
  | .delay ms => .delay ms

/-- What the ops so far leave the host owing to the panel. -/
inductive Duty where
  /-- Before `init`: a RESET that begins it. -/
  | uninitialised
  /-- In deep sleep: the same (R236). -/
  | asleep
  /-- `init` is under way: these ops, to the letter (R225, R226). -/
  | initialising (rest : List Instr)
  /-- A busy-causing command, or the refresh of a frame operation, is under way: these ops (R235, R224). -/
  | owing (rest : List Instr)
  /-- The deep-sleep command has been sent: its data (R234). -/
  | sleeping (rest : List Instr)
  /-- A frame is under way, so many of its bytes sent (R230, R231). -/
  | frame (sent : Nat)
  /-- Nothing; whether a data transaction is open (R237, 70_reset_and_hazards.md R307). -/
  | ready (opened : Bool)
  deriving DecidableEq, Repr

/-- What is owed after the op `i` when exactly the ops `rest` are, `more` telling what is owed while some are left and
`done` what is owed after them. -/
def takeOwed (rest : List Instr) (i : Instr) (more : List Instr → Duty) (done : Duty) : Option Duty :=
  match rest with
  | [] => none
  | j :: rest' => if asData i = j then some (if rest'.isEmpty then done else more rest') else none

/-- What is owed after a command in a panel that is awake and owed nothing: after the busy-causing commands their data
and exactly one WAIT_IDLE, after deep sleep its data and no WAIT_IDLE, after `OPC_DTM` a frame (R227, R234, R235). -/
def dutyOfCommand (p : PanelTable) (b : Byte) : Duty :=
  if b = OPC_PON then .owing [.waitidle]
  else if b = OPC_TIMING then .owing (sendOps [p.p06.1, p.p06.2.1, p.p06.2.2.1, p.p06.2.2.2] ++ [.waitidle])
  else if b = OPC_REFRESH then .owing (sendOps [P12] ++ [.waitidle])
  else if b = OPC_POF then .owing (sendOps [P02] ++ [.waitidle])
  else if b = OPC_SLEEP then .sleeping (sendOps [p.p07])
  else if b = p.opcDtm then .frame 0
  else .ready false

/-- What is owed after a data op of `n` bytes in a frame: it stays within its row, ends the row's transaction exactly at
the row's end, and after the last row the refresh is owed (R230, R231, R224). -/
def dutyOfFrameData (p : PanelTable) (sent n : Nat) (last : Bool) : Option Duty :=
  let rowEnd := (sent / ROW_BYTES + 1) * ROW_BYTES
  if sent + n ≤ rowEnd ∧ (last = true ↔ sent + n = rowEnd) then
    some (if sent + n = FRAME_BYTES then .owing (refreshOps p) else .frame (sent + n))
  else none

/-- What is owed after an op, and nothing at all when the op breaks a duty. NOP is no panel op. DESIGN CHOICE (log entry
14), the spec being silent: a DELAY is taken before `init`, in deep sleep, in a panel that is owed nothing, right before
an owed WAIT_IDLE that follows a command or its data, and between the rows of a frame, and refused elsewhere, so between
RESET and its WAIT_IDLE and before an owed CMD; and RESET is taken in a panel that is owed nothing. -/
def Duty.after (p : PanelTable) : Duty → Instr → Option Duty
  | d, .nop => some d
  | .uninitialised, .reset => some (.initialising (initOps p).tail)
  | .uninitialised, .delay _ => some .uninitialised
  | .uninitialised, _ => none
  | .asleep, .reset => some (.initialising (initOps p).tail)
  | .asleep, .delay _ => some .asleep
  | .asleep, _ => none
  | .initialising rest, i => takeOwed rest i .initialising (.ready false)
  | .owing rest, .delay ms => if rest.head? = some .waitidle then some (.owing rest)
    else takeOwed rest (.delay ms) .owing (.ready false)
  | .owing rest, i => takeOwed rest i .owing (.ready false)
  | .sleeping rest, i => takeOwed rest i .sleeping .asleep
  | .frame sent, .delay _ => if sent % ROW_BYTES = 0 then some (.frame sent) else none
  | .frame sent, i =>
    match dataCount i with
    | some (n, last) => dutyOfFrameData p sent n last
    | none => none
  | .ready _, .cmd b => some (dutyOfCommand p b)
  | .ready _, .reset => some (.initialising (initOps p).tail)
  | .ready _, .delay _ => some (.ready false)
  | .ready _, .waitidle => none
  | .ready _, .data last _ => some (.ready (!last))
  | .ready _, .pix last _ _ => some (.ready (!last))
  | .ready _, .fill _ last _ => some (.ready (!last))

/-- What a sequence of ops leaves owing, and nothing at all when it breaks a duty on the way. -/
def dutyAfter (p : PanelTable) : Duty → List Instr → Option Duty
  | d, [] => some d
  | d, i :: is =>
    match d.after p i with
    | some d' => dutyAfter p d' is
    | none => none

/-- Whether a program may end here: nothing is owed and no data transaction is open (R237). -/
def Duty.settled : Duty → Bool
  | .uninitialised => true
  | .asleep => true
  | .ready opened => !opened
  | .initialising _ => false
  | .owing _ => false
  | .sleeping _ => false
  | .frame _ => false

/-- Whether a program, run from the duty `d`, keeps every duty to its end. -/
def keepsDuties (p : PanelTable) (d : Duty) (ops : List Instr) : Bool :=
  match dutyAfter p d ops with
  | some d' => d'.settled
  | none => false

end Sys2Proof.Machine
end

