-- ==== Sys2Proof/Machine/HostSession.lean ====
section
/-! DEFINITION. A host's session on the block (spec/70_reset_and_hazards.md R295, spec/44_host_sequences.md R224): which
call may follow which, by the results of the calls before, and each call run by the host of `HostAgent`. -/

namespace Sys2Proof.Machine

/-- Where the panel's life stands when a call that was begun at `l` has ended with the result `r`. A failed `init` leaves
frames waiting for an `init` that ends with ERR = 0 (R295); what a failed frame operation or deep sleep leaves is the
model's choice (log entry 15). -/
def Life.ended (l : Life) (c : Call) (r : CallResult) : Life :=
  match l.after c with
  | none => l
  | some l' =>
    if r = .success then l'
    else
      match c with
      | .init => .fresh
      | .flood _ => .failed
      | .stripes _ => .failed
      | .transfer _ => .failed
      | .deepSleep => .asleep

/-- A host within a session: the call it is in, or has just ended, and where the panel's life stood when that began. -/
structure Session where
  life : Life
  call : Call
  host : HostState
  deriving DecidableEq, Repr

/-- After block reset, the boot call (R295, its optional steps left out: log entry 17). -/
def Session.boot (p : PanelTable) : Option Session :=
  if p.wf then some ⟨.fresh, .init, .begin 0 (bootCall p)⟩ else none

/-- Where the panel's life stands once the call has ended; nothing before. -/
def Session.lifeNow (g : Session) : Option Life :=
  match g.host.phase with
  | .done r => some (g.life.ended g.call r)
  | .running => none
  | .flushing => none

/-- The actions of a call with these ops: EN is set first if the host has not set it (R296). -/
def HostState.actions (h : HostState) (ops : List Instr) : List HostAction :=
  if h.ctrl.getLsbD 0 then callOf ops else startAction :: callOf ops

/-- The session goes on to the call `c`: only when the last call has ended, and only to a call that the life of the panel
allows (44_host_sequences.md R223, R224, R236, R295). -/
def Session.next (p : PanelTable) (g : Session) (c : Call) : Option Session :=
  match g.lifeNow with
  | none => none
  | some l =>
    match l.after c, c.ops p with
    | some _, some ops => (g.host.nextCall (g.host.actions ops)).map (⟨l, c, ·⟩)
    | some _, none => none
    | none, _ => none

/-- The session writes its failed call again from a point (R237, spec/60_exceptions.md R258): it is the same call. `init`
is written again whole, so that one that ends with ERR = 0 has run whole and in order: DESIGN CHOICE (log entry 15), R258
leaving the point to the host. -/
def Session.again (g : Session) (point : Nat) : Option Session :=
  if g.call = .init ∧ point ≠ 0 then none else (g.host.writeAgain point).map fun h => { g with host := h }

/-- One cycle of session and block together. -/
def Session.edge (busy : Bool) (g : Session) (s : State) : Session × Host.Outcome State Fault Refusal :=
  ({ g with host := (loopEdge busy g.host s).1 }, (loopEdge busy g.host s).2)

end Sys2Proof.Machine
end

