-- ==== Sys2Proof/Machine/Programs.lean ====
section
/-! DEFINITION. The micro-program of every op in one place, and an op run on its own: the clock edges of its
micro-program without host accesses, which is how its length and its effect on the pins are told. -/

namespace Sys2Proof.Machine

/-- The micro-program of an op (40_framer.md R130 `program`). -/
def programOf (c : Config) : Instr → List Stmt
  | .nop => nopProgram
  | .cmd byte => cmdProgram c byte
  | .data last byte => dataProgram c last byte
  | .pix last left right => pixProgram c last left right
  | .fill count last color => fillProgram c count last color
  | .reset => resetProgram c
  | .waitidle => waitidleProgram c
  | .delay ms => delayProgram c ms

/-- What the engine's segment at an edge leaves, as a function: `runSegment` always answers it (no op stops the
machine). -/
def segmentOf (s : State) : State :=
  match s.eng with
  | .idle => s
  | .close => if s.due then runClose s else s
  | .exec =>
    if s.due then
      match decode s.cur with
      | some i => runProgram (programOf s.cfg i) s
      | none => illegalOp s
    else s

/-- What the engine's segment leaves at an edge with the host access `a`. -/
def afterSegment (a : Option Access) (s : State) : State := segmentOf (hostWrite a s)

/-- A clock edge as a running op sees it: its segment if one is due, and the passing of the cycle. -/
def opEdge (i : Instr) (s : State) : Host.Outcome State Fault Refusal :=
  match (if s.due then exec i s else .next s) with
  | .next t => .next (t.tick s.input.busy)
  | .fault f => .fault f
  | .refused r => .refused r

/-- `n` such edges. After the op has ended nothing more runs. -/
def opRun (i : Instr) : Nat → State → Host.Outcome State Fault Refusal
  | 0, s => .next s
  | n + 1, s =>
    match opEdge i s with
    | .next t => opRun i n t
    | .fault f => .fault f
    | .refused r => .refused r

/-- The op `i` starts at the next edge: its first segment is due there. -/
def startsNext (s : State) : Prop := s.k = some ⟨s.cycle + 1, 0⟩

/-- The statements a segment executes, in order: the path of `runFrom`. -/
def executedFrom (pc skipped : Nat) (p : List Stmt) (s : State) : List Stmt :=
  match p, skipped with
  | [], _ => []
  | _ :: p, n + 1 => executedFrom (pc + 1) n p s
  | st :: p, 0 =>
    st :: match doStmt pc s st with
      | .go s' => executedFrom (pc + 1) 0 p s'
      | .skip n s' => executedFrom (pc + 1) n p s'
      | .stop _ => []

/-- The statements the op's segment executes at the next edge, if it is due. -/
def executedAt (i : Instr) (s : State) : List Stmt :=
  match s.k with
  | none => []
  | some r => if s.due then executedFrom r.pc 0 ((programOf s.cfg i).drop r.pc) s else []

/-- The level a statement drives on the panel reset line: a reset event (00_scope.md R17), whether or not the level
changes. -/
def Stmt.drives : Stmt → Option Bool
  | .setRstN v => some v
  | .skipIfHigh _ => none
  | .skipIfLow _ => none
  | .wait _ => none
  | .waitRise _ => none
  | .waitFall _ => none
  | .setDc _ => none
  | .select => none
  | .deselect => none
  | .bit _ => none
  | .sclkHigh => none
  | .byteEnd => none
  | .setRem _ => none
  | .fillAgain _ _ _ => none
  | .pollInit => none
  | .sample => none
  | .pollWake => none

/-- The reset events of `n` edges of an op: the level driven and the edge (R17). -/
def resetEvents (i : Instr) : Nat → State → List (Bool × Nat)
  | 0, _ => []
  | n + 1, s =>
    ((executedAt i s).filterMap Stmt.drives).map (fun v => (v, s.now)) ++
      match opEdge i s with
      | .next t => resetEvents i n t
      | .fault _ => []
      | .refused _ => []

end Sys2Proof.Machine
end

