-- ==== Sys2Proof/Machine/Traces.lean ====
section
/-! DEFINITION. Traces: the wire trace of spec/00_scope.md R17 from the pins, the trace of all a run does to the panel,
transactions, reset events, idle waits and delays in order, the trace a sequence of ops must give (40_framer.md R140,
43_reset_timer.md R204), and the golden init trace of 44_host_sequences.md R226. -/

namespace Sys2Proof.Machine

/-! ### The wire trace (R17) -/

/-- The kind of a transaction: command when DC = 0 in the cycle CS_N falls, data when DC = 1. -/
inductive TransactionKind where
  | command
  | data
  deriving DecidableEq, Repr

/-- The kind a level of DC gives. -/
def kindOf (dc : Bool) : TransactionKind := if dc then .data else .command

/-- A transaction of the wire trace: `C[...]` or `D[...]`. -/
structure Transaction where
  kind : TransactionKind
  bytes : List Byte
  deriving DecidableEq, Repr

/-- A byte from its bits, the first the most significant (20_memory.md R71). -/
def byteOfBits (b7 b6 b5 b4 b3 b2 b1 b0 : Bool) : Byte :=
  bit1 b7 ++ bit1 b6 ++ bit1 b5 ++ bit1 b4 ++ bit1 b3 ++ bit1 b2 ++ bit1 b1 ++ bit1 b0

/-- Bits grouped eight at a time, first bit most significant (R17); bits short of a byte are left over (log entry 9). -/
def bytesOfBits : List Bool → List Byte
  | b7 :: b6 :: b5 :: b4 :: b3 :: b2 :: b1 :: b0 :: rest => byteOfBits b7 b6 b5 b4 b3 b2 b1 b0 :: bytesOfBits rest
  | _ => []

/-- The transactions from the pins of successive cycles, given the transaction under way with its bits so far and the
level of SCLK in the cycle before. -/
def traceFrom : Option (TransactionKind × List Bool) → Bool → List Pins → List Transaction
  | none, _, [] => []
  | some (k, bits), _, [] => [⟨k, bytesOfBits bits⟩]
  | underway, sclk, p :: ps =>
    if p.csN then
      match underway with
      | none => traceFrom none p.sclk ps
      | some (k, bits) => ⟨k, bytesOfBits bits⟩ :: traceFrom none p.sclk ps
    else
      let (k, bits) := underway.getD (kindOf p.dc, [])
      traceFrom (some (k, if p.sclk && !sclk then bits ++ [p.mosi] else bits)) p.sclk ps

/-- The wire trace of a run, from its pins alone (R17). A clock already high in the first cycle is no rising edge
(log entry 9). -/
def wireTrace (pins : List Pins) : List Transaction := traceFrom none true pins

/-- The pin levels the state's fields give. -/
def State.levels (s : State) : Pins := ⟨s.csN, s.dc, s.sclk, s.mosi, s.rstN⟩

/-- The pins in the cycle of the state and the `n` cycles after it, while an op runs alone. -/
def opPins (i : Instr) : Nat → State → List Pins
  | 0, s => [s.levels]
  | n + 1, s =>
    s.levels ::
      match opEdge i s with
      | .next t => opPins i n t
      | .fault _ => []
      | .refused _ => []

/-- The pins in the cycle of the state and the `n` cycles after it, in the machine. -/
def pinsOver : Nat → State → List Pins
  | 0, s => [s.pins]
  | n + 1, s =>
    s.pins ::
      match step s with
      | .next t => pinsOver n t
      | .fault _ => []
      | .refused _ => []

/-! ### The panel trace: everything a run does to the panel, in order -/

/-- What a trace records: a transaction, when it ends; a reset event (R17); a WAIT_IDLE, when it takes its first sample;
a DELAY, when it begins to wait. -/
inductive Event where
  | transaction (t : Transaction)
  | rst (level : Bool)
  | idleWait
  | delay (ms : Nat)
  deriving DecidableEq, Repr

/-- The transaction of an event. -/
def Event.transaction? : Event → Option Transaction
  | .transaction t => some t
  | .rst _ => none
  | .idleWait => none
  | .delay _ => none

/-- The data transaction that is open, if one is, as it ends. -/
def closedData : Option (List Byte) → List Event
  | none => []
  | some bytes => [.transaction ⟨.data, bytes⟩]

/-- The bytes a data op adds to the transaction, which ends with LAST (R140). -/
def addData (opened : Option (List Byte)) (last : Bool) (bytes : List Byte) : List Event × Option (List Byte) :=
  if last then ([.transaction ⟨.data, opened.getD [] ++ bytes⟩], none) else ([], some (opened.getD [] ++ bytes))

/-- What one op, run without an error, adds to the panel trace, and the bytes so far of the data transaction it leaves
open (R140, 43_reset_timer.md R204), `opened` being those of the one it finds open. -/
def eventsOfOp (opened : Option (List Byte)) : Instr → List Event × Option (List Byte)
  | .nop => ([], opened)
  | .cmd b => (closedData opened ++ [.transaction ⟨.command, [b]⟩], none)
  | .data last b => addData opened last [b]
  | .pix last l r => addData opened last [pack l r]
  | .fill count last c => addData opened last (List.replicate count.toNat (fillByte c))
  | .reset => (closedData opened ++ [.rst true, .rst false, .rst true], none)
  | .waitidle => (closedData opened ++ [.idleWait], none)
  | .delay ms => (closedData opened ++ [.delay ms.toNat], none)

/-- The panel trace of a sequence of ops run without an error. -/
def eventsFrom (opened : Option (List Byte)) : List Instr → List Event
  | [] => closedData opened
  | i :: is => (eventsOfOp opened i).1 ++ eventsFrom (eventsOfOp opened i).2 is

/-- The panel trace of a sequence of ops from a closed state. -/
def eventsOf (ops : List Instr) : List Event := eventsFrom none ops

/-- The wire trace of a sequence of ops from a closed state (R140). -/
def transactionsOf (ops : List Instr) : List Transaction := (eventsOf ops).filterMap Event.transaction?

/-- The golden init trace (44_host_sequences.md R226): three reset events, one WAIT_IDLE, the settle delay, every table
entry as a command and its data in order and byte for byte, power-on, and one WAIT_IDLE. -/
def goldenInit (p : PanelTable) : List Event :=
  [.rst true, .rst false, .rst true, .idleWait, .delay SETTLE_MS] ++
  p.initTable.flatMap (fun e => [.transaction ⟨.command, [e.1]⟩, .transaction ⟨.data, e.2⟩]) ++
  [.transaction ⟨.command, [OPC_PON]⟩, .idleWait]

/-- What a statement of the running op records, but for transactions, which are read from the pins. -/
def Stmt.event (i : Instr) : Stmt → Option Event
  | .setRstN v => some (.rst v)
  | .sample => some .idleWait
  | .wait _ =>
    match i with
    | .delay ms => some (.delay ms.toNat)
    | .nop => none
    | .cmd _ => none
    | .data _ _ => none
    | .pix _ _ _ => none
    | .fill _ _ _ => none
    | .reset => none
    | .waitidle => none
  | .skipIfHigh _ => none
  | .skipIfLow _ => none
  | .waitRise _ => none
  | .waitFall _ => none
  | .setDc _ => none
  | .select => none
  | .deselect => none
  | .bit _ => none
  | .sclkHigh => none
  | .byteEnd => none
  | .setRem _ => none
  | .fillAgain _ _ _ => none
  | .pollInit => none
  | .pollWake => none

/-- The reset events, idle waits and delays of the edge that ends the cycle of the state. -/
def State.edgeEvents (s : State) : List Event :=
  if s.input.rst then []
  else
    match s.eng with
    | .idle => []
    | .close => []
    | .exec =>
      match decode s.cur with
      | some i => (executedAt i s).filterMap (Stmt.event i)
      | none => []

/-- The transaction under way after a cycle with the pins `p`, given the one under way before it and the level of SCLK
in the cycle before. -/
def underwayAfter (underway : Option (TransactionKind × List Bool)) (sclk : Bool) (p : Pins) :
    Option (TransactionKind × List Bool) :=
  if p.csN then none
  else
    let (k, bits) := underway.getD (kindOf p.dc, [])
    some (k, if p.sclk && !sclk then bits ++ [p.mosi] else bits)

/-- The transaction under way as the event of its end. -/
def endOf : Option (TransactionKind × List Bool) → List Event
  | none => []
  | some (k, bits) => [.transaction ⟨k, bytesOfBits bits⟩]

/-- The panel trace of the cycle of the state and the `n` after it, in the machine: transactions from the pins alone,
the rest from the edges. At an edge that ends a transaction and records more, the transaction comes first (R135). -/
def observeFrom : Nat → Option (TransactionKind × List Bool) → Bool → State → List Event
  | 0, underway, sclk, s => endOf (underwayAfter underway sclk s.pins)
  | n + 1, underway, sclk, s =>
    match step s with
    | .next t =>
      (if t.pins.csN then endOf (underwayAfter underway sclk s.pins) else []) ++ s.edgeEvents ++
        observeFrom n (underwayAfter underway sclk s.pins) s.pins.sclk t
    | .fault _ => endOf (underwayAfter underway sclk s.pins)
    | .refused _ => endOf (underwayAfter underway sclk s.pins)

/-- The panel trace of a run of `n` edges. -/
def observe (n : Nat) (s : State) : List Event := observeFrom n none true s

/-- The golden-trace check of R226: whether a run of `n` edges gives exactly the init trace of the table. -/
def initRunIsGolden (p : PanelTable) (n : Nat) (s : State) : Bool := observe n s == goldenInit p

end Sys2Proof.Machine
end

