-- ==== Sys2Proof/Safety.lean ====
section
/-! DEFINITION. What claims about the block are stated with: the wire guarantees of spec/40_framer.md R134, the invariants of
the state, what ops leave as it was, and the edges of spec/70_reset_and_hazards.md R305 at which things happen. -/

namespace Sys2Proof.Machine

/-! ### The wire guarantees between two successive states (R134) -/

/-- (a) DC changes only while CS_N is high, and never at the edge where CS_N rises; (c) CS_N falls only `T_CSW` cycles
after it rose; (d) SCLK is 0 whenever CS_N changes; (e) MOSI changes only at edges where SCLK is set to 0 or is
already 0. -/
structure WireGuarantee (s t : State) : Prop where
  dc_changes_deselected : t.dc ≠ s.dc → s.csN = true ∧ t.csN = true
  selected_after_gap : s.csN = true → t.csN = false → afterEdge s.tCsRise s.cfg.tCsw ≤ s.now
  clock_low_at_select : t.csN ≠ s.csN → s.sclk = false ∧ t.sclk = false
  mosi_changes_clock_low : t.mosi ≠ s.mosi → t.sclk = false

/-! ### Invariants of the state -/

/-- What is known of the pins at a statement of a micro-program: CS_N if the statements before it settle it, SCLK and
RST_N. -/
structure Expect where
  csN : Option Bool
  sclk : Bool
  rstN : Bool
  deriving DecidableEq, Repr

/-- What is known of the pins when a micro-program starts: SCLK = 0 and RST_N = 1 at an op boundary
(10_state.md R44, 43_reset_timer.md R205). -/
def Expect.start : Expect := ⟨none, false, true⟩

/-- What is known after a statement. -/
def Expect.after (e : Expect) : Stmt → Expect
  | .skipIfHigh _ => { e with csN := some false }
  | .skipIfLow _ => { e with csN := some true }
  | .select => { e with csN := some false }
  | .deselect => { e with csN := some true }
  | .bit _ => { e with sclk := false }
  | .sclkHigh => { e with sclk := true }
  | .byteEnd => { e with sclk := false }
  | .setRstN v => { e with rstN := v }
  | .wait _ => e
  | .waitRise _ => e
  | .waitFall _ => e
  | .setDc _ => e
  | .setRem _ => e
  | .fillAgain _ _ _ => e
  | .pollInit => e
  | .sample => e
  | .pollWake => e

/-- What is known of the pins at statement `pc` of a micro-program. -/
def expectAt (p : List Stmt) (pc : Nat) : Expect := (p.take pc).foldl Expect.after Expect.start

/-- Whether a segment that has waited can go on at statement `pc`: at the start, after a `wait`, or at a statement
that is looked at again. -/
def resumable (p : List Stmt) (pc : Nat) : Bool :=
  pc == 0 ||
  (match p[pc - 1]? with
    | some (.wait _) => true
    | _ => false) ||
  (match p[pc]? with
    | some (.waitRise _) => true
    | some (.waitFall _) => true
    | some .pollWake => true
    | _ => false)

/-- The continuation and the pins are those of a micro-program that is under way at statement `pc`. -/
def onTrack (p : List Stmt) (pc : Nat) (s : State) : Prop :=
  resumable p pc = true ∧ (∀ v, (expectAt p pc).csN = some v → s.csN = v) ∧
  s.sclk = (expectAt p pc).sclk ∧ s.rstN = (expectAt p pc).rstN

/-- The micro-program the engine is running, with what its start takes for granted. -/
def engineOnTrack (s : State) (pc : Nat) : Prop :=
  match s.eng with
  | .idle => False
  | .close => pc = 0 ∧ s.csN = false ∧ s.sclk = false ∧ s.rstN = true
  | .exec =>
    match decode s.cur with
    | some i => onTrack (programOf s.cfg i) pc s
    | none => pc = 0 ∧ s.sclk = false ∧ s.rstN = true

/-- The block's invariant: the queue keeps its bound and is empty while ERR = 1; ERRCODE is 0 exactly when ERR is 0
and never above 3; an op or CLOSE is running exactly when there is a continuation, which lies in the future; SCLK is
0 and RST_N is 1 when no op runs, and otherwise the pins are where the micro-program has put them. -/
structure Inv (s : State) : Prop where
  queue_bound : s.q.length ≤ s.cfg.qdepth
  queue_empty_on_err : s.err = true → s.q = []
  errcode_zero : s.err = false ↔ s.errcode = 0#3
  errcode_named : s.errcode.toNat ≤ 3
  idle_no_continuation : s.eng = .idle ↔ s.k = none
  wake_ahead : ∀ r, s.k = some r → s.cycle < r.wake
  idle_pins : s.eng = .idle → s.sclk = false ∧ s.rstN = true
  on_track : ∀ r, s.k = some r → engineOnTrack s r.pc

/-- The index of the statement a sleeping WAIT_IDLE goes on at. -/
def pollWakeIndex : Nat := 5

/-- The bounds of the counters (10_state.md R33, R39): `rem` and `idle_cnt` keep their ranges, and in the sleep of a
WAIT_IDLE the samples taken are one more than the intervals slept, and fewer than `DEBOUNCE_N` in a row were idle. -/
structure CounterInv (s : State) : Prop where
  rem_bound : s.rem ≤ 65535
  idle_bound : s.idleCnt ≤ 255
  sleeping : ∀ w, s.eng = .exec → decode s.cur = some .waitidle → s.k = some ⟨w, pollWakeIndex⟩ →
    s.idleCnt < s.cfg.debounceN ∧ s.elapsed < s.cfg.timeoutMs ∧
    s.polls.toNat * s.cfg.pollMs = s.elapsed + s.cfg.pollMs

/-- The credit of a host that keeps the flow control of 44_host_sequences.md R221: its OP writes fit in the queue. -/
def CreditFits (h : HostState) (s : State) : Prop := h.credit + s.q.length ≤ s.cfg.qdepth

/-! ### What an op may not write -/

/-- What no op writes by its own effect: the control bits, DONE, `cur`, the synchronizer, and the model's own fields.
The cycle itself passes in the step, not in the meaning. -/
structure Untouched (s t : State) : Prop where
  en : t.en = s.en
  ieDone : t.ieDone = s.ieDone
  ieErr : t.ieErr = s.ieErr
  done : t.done = s.done
  cur : t.cur = s.cur
  bsync1 : t.bsync1 = s.bsync1
  bsync2 : t.bsync2 = s.bsync2
  cycle : t.cycle = s.cycle
  cfg : t.cfg = s.cfg
  inputs : t.inputs = s.inputs
  draws : t.draws = s.draws

/-- What only the error procedure writes among the effects of ops: the error registers, the queue and the engine. -/
structure ErrorsKept (s t : State) : Prop where
  err : t.err = s.err
  errcode : t.errcode = s.errcode
  errinfo : t.errinfo = s.errinfo
  q : t.q = s.q
  eng : t.eng = s.eng

/-- What only WAIT_IDLE writes. -/
structure WaitKept (s t : State) : Prop where
  polls : t.polls = s.polls
  elapsed : t.elapsed = s.elapsed
  idleCnt : t.idleCnt = s.idleCnt

/-- What only CMD and the data ops write. -/
structure WireKept (s t : State) : Prop where
  dc : t.dc = s.dc
  sclk : t.sclk = s.sclk
  mosi : t.mosi = s.mosi
  tSclkFall : t.tSclkFall = s.tSclkFall

/-! ### Edges (70_reset_and_hazards.md R305) -/

/-- The first edge from `e` on at which `now >= t + n` holds. -/
def edgeAfter (t : Option Nat) (n e : Nat) : Nat := max e (afterEdge t n)

/-- The edge at which a non-data op whose first segment runs at edge `e` goes on, CS_N being high by then: the edge of
its auto-close, or `e` itself. -/
def autoClosedAt (s : State) (e : Nat) : Nat := if s.csN then e else edgeAfter s.tSclkFall s.cfg.tCsh e

/-- When CS_N last rose, as that op finds it. -/
def riseSeen (s : State) (e : Nat) : Option Nat := if s.csN then s.tCsRise else some (autoClosedAt s e)

/-- The edge at which `open(v)`, reached at edge `e` with CS_N last risen at `rise`, sets DC. -/
def dcAt (rise : Option Nat) (e : Nat) : Nat := edgeAfter rise 1 e

/-- The edge at which it lowers CS_N. -/
def selectAt (c : Config) (rise : Option Nat) (e : Nat) : Nat := edgeAfter rise c.tCsw (dcAt rise e + c.tDcs)

/-- The edge at which the first byte of an op begins: bit 7 is put on MOSI. -/
def openedAt (c : Config) (rise : Option Nat) (e : Nat) : Nat := selectAt c rise e + c.tCss

/-- Cycles of one byte's `shift` (40_framer.md R132). -/
def byteCycles (c : Config) : Nat := 16 * c.sckHalf

/-- The edge at which CMD, starting at the next edge, begins its byte. -/
def cmdByteAt (s : State) : Nat := openedAt s.cfg (riseSeen s s.now) (autoClosedAt s s.now)

/-- The edge at which CMD ends. -/
def cmdEndAt (s : State) : Nat := cmdByteAt s + byteCycles s.cfg + s.cfg.tCsh

/-- The edge at which a data op, starting at the next edge, begins its first byte: at once in an open transaction. -/
def dataByteAt (s : State) : Nat := if s.csN then openedAt s.cfg s.tCsRise s.now else s.now

/-- The edge at which a data op of `n` bytes ends. -/
def dataEndAt (s : State) (n : Nat) (last : Bool) : Nat :=
  dataByteAt s + byteCycles s.cfg * n + (if last then s.cfg.tCsh else 0)

/-- `K = ceil(TIMEOUT_MS / POLL_MS)`, the most samples a WAIT_IDLE takes (42_busy_wait.md R185). -/
def maxSamples (c : Config) : Nat := (c.timeoutMs + c.pollMs - 1) / c.pollMs

/-- `P = POLL_MS * TICK_DIV`, the cycles between two samples (R185). -/
def pollCycles (c : Config) : Nat := c.pollMs * c.tickDiv

end Sys2Proof.Machine
end

