-- ==== Sys2Proof/Certificates/Slice0/Obligations.lean ====
section
/-! DEFINITION. The statements about the block that are left for proof. -/

open Sys2Proof Sys2Proof.Machine

/-! ### Reset and the step -/

/-- 10_state.md R60: every field of R33 has the value of the table in cycle 0, after an edge with `rst_sys` asserted, and
as it shows in a cycle in which `rst_sys` is asserted; and the registers and `irq` computed from it have the values
given below the table. -/
def Obligations.ResetGivesEveryFieldItsValue : Prop :=
  ∀ t : State, (t = State.reset ∨ (∃ s inp, inp.rst = true ∧ clockEdge inp s = .next t) ∨
      ∃ s : State, s.input.rst = true ∧ t = s.shown) →
    (t.en = false ∧ t.ieDone = false ∧ t.ieErr = false ∧ t.done = false ∧ t.err = false ∧ t.errcode = 0 ∧
      t.errinfo = 0 ∧ t.polls = 0 ∧ t.q = [] ∧ t.eng = .idle ∧ t.cur = 0 ∧ t.k = none ∧ t.rem = 0 ∧
      t.elapsed = 0 ∧ t.idleCnt = 0 ∧ t.csN = true ∧ t.dc = false ∧ t.sclk = false ∧ t.mosi = false ∧
      t.tCsRise = none ∧ t.tSclkFall = none ∧ t.rstN = true ∧ t.bsync1 = false ∧ t.bsync2 = false) ∧
    (t.cfg.Valid → t.ctrlValue = 0x00000000 ∧ t.errinfo = 0x00000000 ∧ t.statusValue = 0x00000001 ∧ t.pinsValue = 0x00000005 ∧ t.irq = false)

/-- 70_reset_and_hazards.md R290 and 60_exceptions.md R262, first priority: while `rst_sys` is asserted the pins show
the reset levels, a read answers 0, and the edge gives the reset state whatever the host does. The error response is
that of 20_memory.md R73 and R78, by R79 (log entry 6). -/
def Obligations.BlockResetOverridesTheEdge : Prop :=
  ∀ s : State, s.cfg.Valid → s.input.rst = true →
    step s = .next { State.reset with cfg := s.cfg, inputs := s.inputs.tail, draws := s.draws + 1 } ∧
    s.pins = ⟨true, false, false, false, true⟩ ∧ s.irqPin = false ∧
    (∀ off, s.input.access = some (.read off) →
      ∃ e, s.response = .read 0 e ∧ (e = true ↔ off.toNat % 4 ≠ 0 ∨ off = 0x18 ∨ off = 0x1C)) ∧
    (∀ off v, s.input.access = some (.write off v) →
      ∃ d e, s.response = .write d e ∧
        (e = true ↔ off.toNat % 4 ≠ 0 ∨ off ∈ [0x18, 0x1C, 0x0C, 0x10, 0x14]) ∧
        (off.toNat % 4 ≠ 0 ∨ off = 0x18 ∨ off = 0x1C → d = some 0))

/-- 00_scope.md R9: within the ranges every step answers a next state; outside them the model faults, which is the
model's choice (log entry 4). No step refuses. -/
def Obligations.StepAnswersWithinTheRanges : Prop :=
  ∀ s : State, (s.cfg.Valid → ∃ t, step s = .next t) ∧ (¬ s.cfg.Valid → step s = .fault .parameterOutOfRange)

/-- When a segment of an op is due and its word decodes, the step runs exactly that op's meaning on the state in which
the host's write has taken effect, and finishes the edge around what it leaves. -/
def Obligations.StepRunsTheDecodedOp : Prop :=
  ∀ (s : State) (i : Instr), s.cfg.Valid → s.input.rst = false → s.eng = .exec → s.due = true →
    decode s.cur = some i →
    ∃ after, exec i (hostWrite s.input.access s) = .next after ∧
      step s = .next (finishEdge s.input s after)

/-- A word placed where the next step fetches is run by that step: the engine's part of the edge is the meaning of the
op the decoder reads from it. -/
def Obligations.StepRunsAPlacedWord : Prop :=
  ∀ (s : State) (i : Instr), s.cfg.Valid → s.input.rst = false → WellFormed i →
    decodeTableWord 32 (encode i).toNat = some i ∧
    ∃ after,
      exec i (hostWrite s.input.access (s.withFetchWord 32 (encode i).toNat)) = .next after ∧
      step (s.withFetchWord 32 (encode i).toNat) =
        .next (finishEdge s.input (s.withFetchWord 32 (encode i).toNat) after)

/-! ### Encoding -/

/-- Words written out bit by bit from the layouts of 30_encoding.md R102 to R109, one for each op. -/
def Obligations.WrittenOutWordsDecode : Prop :=
  decode 0b0000_0000000000000000000000000000#32 = some .nop ∧
  decode 0b0001_00000000000000000000_00000100#32 = some (.cmd 0x04) ∧
  decode 0b0010_0000000000000000000_1_11111111#32 = some (.data true 0xFF) ∧
  decode 0b0011_0000000000000000000_1_0_010_0_011#32 = some (.pix true 2 3) ∧
  decode 0b0100_0000000110010000_000_1_00000_001#32 = some (.fill 400 true 1) ∧
  decode 0b0101_0000000000000000000000000000#32 = some .reset ∧
  decode 0b0110_0000000000000000000000000000#32 = some .waitidle ∧
  decode 0b0111_00000000_00000000000000011110#32 = some (.delay 30)

/-- Decoding the word of any well-formed op gives the op back: no operand bit is dropped. -/
def Obligations.DecodeOfEncodeIsTheOp : Prop :=
  ∀ i : Instr, WellFormed i → decode (encode i) = some i

/-- 30_encoding.md R112: a word the decoder accepts is exactly the word of the op it stands for, which is well-formed:
every word stands for one op or for none. -/
def Obligations.EncodeOfDecodeIsTheWord : Prop :=
  ∀ (w : Word) (i : Instr), decode w = some i → encode i = w ∧ WellFormed i

/-- The decoder accepts exactly the words of the opcode table: those with a row's fixed bits, FILL's COUNT not being
0; and the op it reads is that row's. -/
def Obligations.DecoderFollowsTheTable : Prop :=
  (∀ w : Word, (∃ i, decode w = some i) ↔
    ∃ r ∈ opcodeTable, r.admits w = true ∧ (r.mnemonic = "fill" → fieldCount w ≠ 0)) ∧
  (∀ (w : Word) (i : Instr), decode w = some i →
    ∀ r ∈ opcodeTable, r.admits w = true → r.mnemonic = i.mnemonic)

/-- 30_encoding.md R110 and R111 on the operands: the fields of a decoded word are its bits, unsigned. -/
def Obligations.OperandsAreTheWordsBits : Prop :=
  ∀ w : Word,
    (∀ b, decode w = some (.cmd b) → b.toNat = w.toNat % 256) ∧
    (∀ l b, decode w = some (.data l b) → b.toNat = w.toNat % 256 ∧ l = w.toNat.testBit 8) ∧
    (∀ l x y, decode w = some (.pix l x y) →
      x.toNat = w.toNat / 16 % 8 ∧ y.toNat = w.toNat % 8 ∧ l = w.toNat.testBit 8) ∧
    (∀ n l c, decode w = some (.fill n l c) →
      n.toNat = w.toNat / 4096 % 65536 ∧ c.toNat = w.toNat % 8 ∧ l = w.toNat.testBit 8 ∧ n ≠ 0) ∧
    (∀ m, decode w = some (.delay m) → m.toNat = w.toNat % 1048576)

/-! ### Codec -/

/-- 41_codec.md R160, R161 and R164: the wire code of every named colour, its nibble and its fill byte. -/
def Obligations.ColourCodesAndFillBytes : Prop :=
  (∀ c : Colour, fillByte c = (c.setWidth 8 <<< 4) ||| c.setWidth 8 ∧ (enc c).toNat = c.toNat) ∧
  [ColourName.black, .white, .yellow, .red, .blue, .green, .clean].map (fun n => (n.code, fillByte n.code)) =
    [(0b000, 0x00), (0b001, 0x11), (0b010, 0x22), (0b011, 0x33), (0b101, 0x55), (0b110, 0x66), (0b111, 0x77)] ∧
  fillByte 0b100 = 0x44

/-- 41_codec.md R163 and R168: `pack` puts the left pixel in the high nibble, never exceeds 0x77, is injective, has
exactly the bytes with bits 7 and 3 equal to 0 as its image, and is undone by `unpack`. -/
def Obligations.PackedByteHoldsBothPixels : Prop :=
  (∀ l r : Colour, (pack l r).toNat = 16 * l.toNat + r.toNat ∧ (pack l r).toNat ≤ 0x77 ∧
    (pack l r).getLsbD 7 = false ∧ (pack l r).getLsbD 3 = false ∧ unpack (pack l r) = some (l, r)) ∧
  (∀ l r l' r' : Colour, pack l r = pack l' r' → l = l' ∧ r = r') ∧
  (∀ b : Byte, b.getLsbD 7 = false → b.getLsbD 3 = false → ∃ l r, pack l r = b)

/-! ### Register port -/

/-- 10_state.md R36: every field of STATUS, reserved bits reading 0, for a queue that QCOUNT can count. -/
def Obligations.StatusShowsItsFields : Prop :=
  ∀ s : State, s.q.length ≤ 255 →
    let v := s.statusValue
    regRead s 0x04 = .read v false ∧
    (v.getLsbD 0 = true ↔ s.eng = .idle ∧ s.q.length = 0) ∧ (v.getLsbD 1 = true ↔ s.eng ≠ .idle) ∧
    (v.getLsbD 2 = true ↔ s.csN = false) ∧ (v.getLsbD 3 = true ↔ s.q.length = s.cfg.qdepth) ∧
    v.getLsbD 4 = s.done ∧ v.getLsbD 5 = s.err ∧ v.extractLsb' 6 2 = 0 ∧ v.extractLsb' 8 3 = s.errcode ∧
    v.extractLsb' 11 5 = 0 ∧ (v.extractLsb' 16 8).toNat = s.q.length ∧ v.extractLsb' 24 8 = 0

/-- 10_state.md R40: every bit of PINS in the cycle of the read, the reserved bits, its reset value, and that it cannot be
written; `irq` is that of 60_exceptions.md R265. -/
def Obligations.PinsRegisterShowsThePins : Prop :=
  State.reset.pinsValue = 0x00000005 ∧
  ∀ s : State,
    let v := s.pinsValue
    regRead s 0x14 = .read v false ∧ (∀ x, respond s (some (.write 0x14 x)) = .write none true) ∧
    v.getLsbD 0 = s.csN ∧ v.getLsbD 1 = s.dc ∧ v.getLsbD 2 = s.rstN ∧ v.getLsbD 3 = s.sclk ∧ v.getLsbD 4 = s.mosi ∧
    v.getLsbD 5 = s.bsync2 ∧ (v.getLsbD 6 = true ↔ (s.done = true ∧ s.ieDone = true) ∨ (s.err = true ∧ s.ieErr = true)) ∧
    v.extractLsb' 7 25 = 0

/-- 20_memory.md R74 and 10_state.md R35, R37 to R39: a read of a register gives its value and no error, and leaves
the edge as it is without an access. -/
def Obligations.ReadsGiveValuesAndChangeNothing : Prop :=
  ∀ (s : State) (b : Bool),
    regRead s 0x00 = .read ((bit1 s.ieErr ++ bit1 s.ieDone ++ 0#2 ++ 0#1 ++ bit1 s.en).setWidth 32) false ∧
    regRead s 0x04 = .read s.statusValue false ∧ regRead s 0x08 = .read 0 false ∧
    regRead s 0x0C = .read s.errinfo false ∧ regRead s 0x10 = .read s.polls false ∧
    regRead s 0x14 = .read s.pinsValue false ∧ (∀ off, Reg.ofOffset off = none → regRead s off = .read 0 true) ∧
    (∀ off, clockEdge ⟨false, some (.read off), b⟩ s = clockEdge ⟨false, none, b⟩ s)

/-- 20_memory.md R73: a misaligned or unmapped offset gets the error response with data 0 and changes no state; the
six register offsets are legal. -/
def Obligations.IllegalOffsetsGetTheErrorResponse : Prop :=
  ∀ (s : State) (off : Offset) (v : Word) (b : Bool),
    (off.toNat % 4 ≠ 0 ∨ off = 0x18 ∨ off = 0x1C →
      respond s (some (.read off)) = .read 0 true ∧ respond s (some (.write off v)) = .write (some 0) true ∧
      clockEdge ⟨false, some (.read off), b⟩ s = clockEdge ⟨false, none, b⟩ s ∧
      clockEdge ⟨false, some (.write off v), b⟩ s = clockEdge ⟨false, none, b⟩ s) ∧
    (¬ (off.toNat % 4 ≠ 0 ∨ off = 0x18 ∨ off = 0x1C) → ∃ d, respond s (some (.read off)) = .read d false)

/-- 20_memory.md R78: a write to ERRINFO, POLLS or PINS gets the error response and changes no state. -/
def Obligations.ReadOnlyRegistersRefuseWrites : Prop :=
  ∀ (s : State) (off : Offset) (v : Word) (b : Bool), off = 0x0C ∨ off = 0x10 ∨ off = 0x14 →
    respond s (some (.write off v)) = .write none true ∧
    clockEdge ⟨false, some (.write off v), b⟩ s = clockEdge ⟨false, none, b⟩ s

/-- 20_memory.md R76: a CTRL write sets EN and the enables and nothing else but, with bit 1, empties the queue and
keeps the edge from dispatching: the pins, the error flags and the running op are those of the same edge `u` without
the write, and DONE is only set, if the flush leaves the block idle (60_exceptions.md R266). With bit 1 clear the
dispatch is that of the same edge, which read the old EN. Other bits are ignored. -/
def Obligations.CtrlWriteSetsEnablesAndFlushes : Prop :=
  ∀ (s : State) (v : Word) (b : Bool), ∃ t u,
    respond s (some (.write 0x00 v)) = .write none false ∧
    clockEdge ⟨false, some (.write 0x00 v), b⟩ s = .next t ∧ clockEdge ⟨false, none, b⟩ s = .next u ∧
    t.en = v.getLsbD 0 ∧ t.ieDone = v.getLsbD 4 ∧ t.ieErr = v.getLsbD 5 ∧
    t.csN = u.csN ∧ t.dc = u.dc ∧ t.sclk = u.sclk ∧ t.mosi = u.mosi ∧ t.rstN = u.rstN ∧
    t.err = u.err ∧ t.errcode = u.errcode ∧ t.errinfo = u.errinfo ∧
    (v.getLsbD 1 = true → t.q = [] ∧ t.cur = s.cur ∧
      (t.done = true ↔ (t.isIdle = true ∧ s.isIdle = false ∧ t.err = false) ∨ s.done = true) ∧
      (engineFree s (afterSegment none s) = true → t.eng = .idle ∧ t.k = none) ∧
      (engineFree s (afterSegment none s) = false → t.eng = u.eng ∧ t.k = u.k)) ∧
    (v.getLsbD 1 = false → t.q = u.q ∧ t.cur = u.cur ∧ t.eng = u.eng ∧ t.k = u.k ∧ t.done = u.done) ∧
    (∀ v' : Word, v'.getLsbD 0 = v.getLsbD 0 → v'.getLsbD 1 = v.getLsbD 1 → v'.getLsbD 4 = v.getLsbD 4 →
      v'.getLsbD 5 = v.getLsbD 5 → clockEdge ⟨false, some (.write 0x00 v'), b⟩ s = .next t)

/-- 20_memory.md R75: a STATUS write with bit 4 clears DONE unless it is set at the same edge; with bit 5 it clears ERR
and ERRCODE unless an error is recorded there; other bits are ignored and ERRINFO is not changed by it. -/
def Obligations.StatusWriteClearsStickyBits : Prop :=
  ∀ (s : State) (v : Word) (b : Bool), ∃ t,
    respond s (some (.write 0x04 v)) = .write none false ∧
    clockEdge ⟨false, some (.write 0x04 v), b⟩ s = .next t ∧
    (v.getLsbD 4 = true → (t.done = true ↔ t.isIdle = true ∧ s.isIdle = false ∧ t.err = false)) ∧
    (v.getLsbD 5 = true → engineRaised s (afterSegment (some (.write 0x04 v)) s) = false →
      t.err = false ∧ t.errcode = 0) ∧
    (engineRaised s (afterSegment (some (.write 0x04 v)) s) = false → t.errinfo = s.errinfo) ∧
    (∀ v' : Word, v'.getLsbD 4 = v.getLsbD 4 → v'.getLsbD 5 = v.getLsbD 5 →
      clockEdge ⟨false, some (.write 0x04 v'), b⟩ s = .next t)

/-- 20_memory.md R77 and 10_state.md R42: a word written to OP is dropped while ERR = 1, raises OVERFLOW when the queue
of the cycle of the write is full, and is otherwise put at the tail, unless an error of the engine flushes it; it is
not decoded. `u` is the same edge without the write. -/
def Obligations.OpWriteQueuesDropsOrOverflows : Prop :=
  ∀ (s : State) (w : Word) (b : Bool), ∃ t u,
    respond s (some (.write 0x08 w)) = .write none false ∧
    clockEdge ⟨false, some (.write 0x08 w), b⟩ s = .next t ∧ clockEdge ⟨false, none, b⟩ s = .next u ∧
    (s.err = true → t = u) ∧
    (s.err = false → s.q.length ≠ s.cfg.qdepth →
      t.q = (if engineRaised s (afterSegment none s) then [] else u.q ++ [w]) ∧
      t.err = u.err ∧ t.errcode = u.errcode ∧ t.errinfo = u.errinfo ∧ t.eng = u.eng ∧ t.k = u.k ∧ t.cur = u.cur) ∧
    (s.err = false → s.q.length = s.cfg.qdepth →
      t.q = [] ∧ t.err = true ∧
      (engineRaised s (afterSegment none s) = false → t.errcode = 3 ∧ t.errinfo = w))

/-! ### Errors, completion, interrupt -/

/-- 60_exceptions.md R253: a dispatched word that is not legal (opcode 0x8 to 0xF, a reserved bit set, or FILL with COUNT
0: 30_encoding.md R111) raises ILLEGAL_OP in its only segment: its code and the word are recorded, unless an earlier
error stands; the queue is flushed, the engine is idle, and no pin, no POLLS and no framer state changes. -/
def Obligations.IllegalWordIsRecordedAndFlushes : Prop :=
  ∀ s : State, s.cfg.Valid → s.input.rst = false → s.eng = .exec → s.due = true → legal s.cur = false →
    ∃ t, step s = .next t ∧ t.err = true ∧
      (s.err = false ∨ clears 5 s.input.access = true → t.errcode = 2 ∧ t.errinfo = s.cur) ∧
      t.q = [] ∧ t.eng = .idle ∧ t.k = none ∧
      t.csN = s.csN ∧ t.dc = s.dc ∧ t.sclk = s.sclk ∧ t.mosi = s.mosi ∧ t.rstN = s.rstN ∧ t.polls = s.polls ∧
      t.tCsRise = s.tCsRise ∧ t.tSclkFall = s.tSclkFall

/-- 60_exceptions.md R254 and R262: OVERFLOW is recorded with the dropped word, flushes the queue and leaves the running
op as it is at the same edge `u` without the write; an error the engine raises at that edge is the one recorded. -/
def Obligations.OverflowLeavesTheRunningOp : Prop :=
  ∀ (s : State) (w : Word) (b : Bool), s.err = false → s.q.length = s.cfg.qdepth → ∃ t u,
    clockEdge ⟨false, some (.write 0x08 w), b⟩ s = .next t ∧ clockEdge ⟨false, none, b⟩ s = .next u ∧
    t.err = true ∧ t.q = [] ∧
    t.csN = u.csN ∧ t.dc = u.dc ∧ t.sclk = u.sclk ∧ t.mosi = u.mosi ∧ t.rstN = u.rstN ∧ t.polls = u.polls ∧
    (engineFree s (afterSegment none s) = false → t.eng = u.eng ∧ t.k = u.k ∧ t.cur = u.cur) ∧
    (engineRaised s (afterSegment none s) = false → t.errcode = 3 ∧ t.errinfo = w) ∧
    (engineRaised s (afterSegment none s) = true → t.errcode = u.errcode ∧ t.errinfo = u.errinfo)

/-- 60_exceptions.md R255, the error procedure: an error that stands and is not cleared by the host at this edge stays,
whatever is raised ("first error wins"); otherwise the engine's error is recorded with its code (ILLEGAL_OP for a word
that is not legal, TIMEOUT else) and the op word, or else OVERFLOW with the written word. An error flushes the queue
whether it is recorded or not, and the engine's own leaves the engine idle. -/
def Obligations.ErrorProcedureRecordsTheFirstError : Prop :=
  ∀ s t : State, s.input.rst = false → step s = .next t →
    let a := s.input.access
    let raised := engineRaised s (afterSegment a s)
    let prior := s.err = true ∧ clears 5 a = false
    (prior → t.err = true ∧ t.errcode = s.errcode ∧ t.errinfo = s.errinfo) ∧
    (¬ prior → raised = true →
      t.err = true ∧ t.errcode = (if legal s.cur then 1 else 2) ∧ t.errinfo = s.cur) ∧
    (¬ prior → raised = false → ∀ w, offer s a = .overflow w → t.err = true ∧ t.errcode = 3 ∧ t.errinfo = w) ∧
    (raised = true → t.q = [] ∧ t.eng = .idle ∧ t.k = none) ∧
    (∀ w, offer s a = .overflow w → t.q = [])

/-- 60_exceptions.md R256 (a) to (c): from a state with ERR = 1 no op word is dispatched and an empty queue stays empty,
whatever the host writes, and a free engine that finds CS_N low starts CLOSE. -/
def Obligations.NothingIsDispatchedWhileErr : Prop :=
  ∀ s t : State, s.input.rst = false → s.err = true → step s = .next t →
    t.cur = s.cur ∧ (t.eng = .exec → s.eng = .exec) ∧ (s.q = [] → t.q = []) ∧
    (s.eng = .idle → hostFlush s.input.access = false → s.csN = false → t.eng = .close ∧ t.k = some ⟨t.cycle + 1, 0⟩)

/-- 60_exceptions.md R266: when DONE is 1 after an edge. -/
def Obligations.DoneIsSetWhenTheBlockBecomesIdle : Prop :=
  ∀ s t : State, s.input.rst = false → step s = .next t →
    (t.done = true ↔
      (t.isIdle = true ∧ s.isIdle = false ∧ t.err = false) ∨ (s.done = true ∧ clears 4 s.input.access = false))

/-! ### Dispatch and the queue -/

/-- 40_framer.md R130, the dispatch rule: when the engine is free and nothing flushes, CLOSE is started if ERR = 1 and
CS_N is low, else the head of the queue if ERR = 0 and EN = 1, else nothing; a running engine goes on. What is started
has its first segment at the next edge, and a dispatched word leaves the queue. -/
def Obligations.DispatchFollowsItsRule : Prop :=
  ∀ s t : State, s.input.rst = false → step s = .next t →
    let after := afterSegment s.input.access s
    let flush := flushAt s after s.input.access
    (engineFree s after = false → t.eng = after.eng ∧ t.k = after.k ∧ t.cur = after.cur) ∧
    (engineFree s after = true →
      (flush = true → t.eng = .idle ∧ t.k = none ∧ t.q = []) ∧
      (flush = false → s.err = true → t.csN = false → t.eng = .close ∧ t.k = some ⟨t.cycle + 1, 0⟩ ∧ t.cur = s.cur) ∧
      (flush = false → s.err = false → s.en = true → ∀ w rest, s.q = w :: rest →
        t.eng = .exec ∧ t.cur = w ∧ t.k = some ⟨t.cycle + 1, 0⟩ ∧ t.q.take rest.length = rest) ∧
      (flush = false → (s.err = true ∧ t.csN = true ∨ s.err = false ∧ (s.en = false ∨ s.q = [])) →
        t.eng = .idle ∧ t.k = none))

/-- 70_reset_and_hazards.md R301: an op word written to an idle, enabled block is in the queue after one edge, where it
already shows as not idle, and is dispatched at the second, its first segment being due at the third. -/
def Obligations.WrittenWordIsDispatchedAtTheSecondEdge : Prop :=
  ∀ (s t u : State) (w : Word), s.input = ⟨false, some (.write 0x08 w), s.input.busy⟩ →
    s.eng = .idle → s.en = true → s.err = false → s.q = [] →
    step s = .next t → t.input.rst = false → t.input.access = none → step t = .next u →
    t.q = [w] ∧ t.isIdle = false ∧ t.eng = .idle ∧
    u.eng = .exec ∧ u.cur = w ∧ u.q = [] ∧ u.k = some ⟨s.cycle + 3, 0⟩

/-- 40_framer.md R141: CLOSE raises CS_N at the first edge at which the hold time since the last SCLK fall is over, and
ends there; until then it waits. `cur` keeps its value and no error is raised. -/
def Obligations.CloseRaisesChipSelect : Prop :=
  ∀ s : State, s.cfg.Valid → s.input.rst = false → s.eng = .close → s.k = some ⟨s.cycle + 1, 0⟩ →
    (afterEdge s.tSclkFall s.cfg.tCsh ≤ s.now → ∃ t, step s = .next t ∧ t.csN = true ∧ t.tCsRise = some s.now ∧
      t.dc = s.dc ∧ t.sclk = s.sclk ∧ t.mosi = s.mosi ∧ t.rstN = s.rstN ∧
      segmentOf s = { s with csN := true, tCsRise := some s.now, k := none }) ∧
    (s.now < afterEdge s.tSclkFall s.cfg.tCsh → ∃ t, step s = .next t ∧ t.csN = s.csN ∧ t.eng = .close ∧
      t.k = some ⟨afterEdge s.tSclkFall s.cfg.tCsh, 0⟩ ∧ t.cur = s.cur)

/-- 10_state.md R46: at every edge, whatever the engine does, the synchronizer takes the level of the cycle and shifts;
two edges on, the second stage is that level. -/
def Obligations.SynchronizerTakesTwoEdges : Prop :=
  ∀ s t u : State, s.input.rst = false → step s = .next t → t.input.rst = false → step t = .next u →
    t.bsync1 = s.input.busy ∧ t.bsync2 = s.bsync1 ∧ u.bsync2 = s.input.busy

/-! ### Invariants -/

/-- Every step keeps the block's invariant. -/
def Obligations.StepKeepsTheInvariant : Prop :=
  ∀ s t : State, Inv s → step s = .next t → Inv t

/-- The reset state has the block's invariant and the counters' bounds. -/
def Obligations.ResetHasTheInvariants : Prop := Inv State.reset ∧ CounterInv State.reset

/-- Every step of a state with the invariant, but block reset, keeps the wire guarantees (a), (c), (d) and (e) of
40_framer.md R134. -/
def Obligations.StepKeepsTheWireGuarantees : Prop :=
  ∀ s t : State, Inv s → s.input.rst = false → step s = .next t → WireGuarantee s t

/-- Every step keeps the counters' bounds and the count of a sleeping WAIT_IDLE (10_state.md R33, R39). -/
def Obligations.StepKeepsTheCounters : Prop :=
  ∀ s t : State, Inv s → CounterInv s → step s = .next t → CounterInv t

/-- 10_state.md R38, R39 and R45: but for block reset, ERRINFO changes only at an edge at which an error is recorded, ERR
being 1 after it and having been 0 or cleared at it; POLLS changes only at an edge at which WAIT_IDLE runs, and RST_N
only at one at which RESET runs. -/
def Obligations.WhoWritesErrinfoPollsAndPanelReset : Prop :=
  ∀ s t : State, s.input.rst = false → step s = .next t →
    (t.errinfo ≠ s.errinfo → t.err = true ∧ (s.err = false ∨ clears 5 s.input.access = true)) ∧
    (t.polls ≠ s.polls → s.eng = .exec ∧ decode s.cur = some .waitidle) ∧
    (t.rstN ≠ s.rstN → s.eng = .exec ∧ decode s.cur = some .reset)

/-- 60_exceptions.md R256 (d) and 70_reset_and_hazards.md R302: whatever the host does in a cycle, a running op that does
not end at the edge goes on exactly as it does alone: its pins, counters, timestamps and continuation. -/
def Obligations.HostCannotDisturbARunningOp : Prop :=
  ∀ (s t u : State) (i : Instr), s.cfg.Valid → s.input.rst = false → s.eng = .exec → decode s.cur = some i →
    opEdge i s = .next u → u.k ≠ none → step s = .next t →
    t.k = u.k ∧ t.eng = u.eng ∧ t.cur = u.cur ∧ t.csN = u.csN ∧ t.dc = u.dc ∧ t.sclk = u.sclk ∧ t.mosi = u.mosi ∧
    t.rstN = u.rstN ∧ t.tCsRise = u.tCsRise ∧ t.tSclkFall = u.tSclkFall ∧ t.rem = u.rem ∧ t.elapsed = u.elapsed ∧
    t.idleCnt = u.idleCnt ∧ t.polls = u.polls ∧ t.bsync1 = u.bsync1 ∧ t.bsync2 = u.bsync2 ∧ t.cycle = u.cycle

/-! ### Frames -/

/-- What a segment of CMD, DATA, PIX or FILL leaves as it was: everything but CS_N, DC, SCLK, MOSI, the two timestamps, the
continuation, and for FILL `rem` (40_framer.md R136, R137, 41_codec.md R165, R166, "State written"). -/
def Obligations.FramerOpsFrame : Prop :=
  ∀ (s t : State) (i : Instr),
    ((∃ b, i = .cmd b) ∨ (∃ l b, i = .data l b) ∨ (∃ l x y, i = .pix l x y) ∨ (∃ n l c, i = .fill n l c)) →
    exec i s = .next t →
    Untouched s t ∧ ErrorsKept s t ∧ WaitKept s t ∧ t.rstN = s.rstN ∧ ((∀ n l c, i ≠ .fill n l c) → t.rem = s.rem)

/-- What a segment of RESET or DELAY leaves as it was: everything but CS_N, its timestamp, the continuation, and for RESET
the panel reset line (43_reset_timer.md R201, R203). -/
def Obligations.ResetAndDelayFrame : Prop :=
  ∀ (s t : State) (i : Instr), (i = .reset ∨ ∃ m, i = .delay m) → exec i s = .next t →
    Untouched s t ∧ ErrorsKept s t ∧ WaitKept s t ∧ WireKept s t ∧ t.rem = s.rem ∧ (i ≠ .reset → t.rstN = s.rstN)

/-- What a segment of WAIT_IDLE leaves as it was: everything but CS_N, its timestamp, POLLS, `elapsed`, `idle_cnt` and the
continuation; only a TIMEOUT, at the bound, writes the error registers, the queue and the engine
(42_busy_wait.md R186). -/
def Obligations.WaitIdleFrame : Prop :=
  ∀ s t : State, exec .waitidle s = .next t →
    Untouched s t ∧ WireKept s t ∧ t.rem = s.rem ∧ t.rstN = s.rstN ∧
    (ErrorsKept s t ∨
      (s.cfg.timeoutMs ≤ t.elapsed ∧ t.err = true ∧ t.q = [] ∧ t.eng = .idle ∧ t.k = none ∧
        (s.err = false → t.errcode = 1 ∧ t.errinfo = s.cur) ∧
        (s.err = true → t.errcode = s.errcode ∧ t.errinfo = s.errinfo)))

/-! ### The ops, from their first segment to their end -/

/-- The first segment of every op, from the state in which it is due, as its micro-program writes it (40_framer.md R136,
R137, R139, 41_codec.md R165, R166, 43_reset_timer.md R201, R203): with CS_N low a data op puts bit 7 of its byte on
MOSI at once; with CS_N high and the D/C hold over, CMD and the data ops set DC and wait `T_DCS`; RESET drives RST_N
high and waits its first phase, DELAY waits, NOP ends. WAIT_IDLE has a statement of its own. -/
def Obligations.OpsBeginAsWritten : Prop :=
  ∀ s : State, s.cfg.Valid → startsNext s →
    exec .nop s = .next { s with k := none } ∧
    (s.csN = true → afterEdge s.tCsRise 1 ≤ s.now →
      (∀ b, exec (.cmd b) s = .next { s with dc := false, k := some ⟨s.now + s.cfg.tDcs, 6⟩ }) ∧
      (∀ i, ((∃ l b, i = .data l b) ∨ (∃ l x y, i = .pix l x y) ∨ (∃ n l c, i = .fill n l c)) →
        exec i s = .next { s with dc := true, k := some ⟨s.now + s.cfg.tDcs, 4⟩ })) ∧
    (s.csN = false →
      (∀ l b, exec (.data l b) s =
        .next { s with sclk := false, mosi := b.getLsbD 7, k := some ⟨s.now + s.cfg.sckHalf, 9⟩ }) ∧
      (∀ l x y, exec (.pix l x y) s =
        .next { s with sclk := false, mosi := false, k := some ⟨s.now + s.cfg.sckHalf, 9⟩ }) ∧
      (∀ n l c, n ≠ 0 → exec (.fill n l c) s =
        .next { s with rem := n.toNat, sclk := false, mosi := false, k := some ⟨s.now + s.cfg.sckHalf, 10⟩ })) ∧
    (s.csN = true →
      exec .reset s = .next { s with rstN := true, k := some ⟨s.now + s.cfg.rstH1Ms * s.cfg.tickDiv, 5⟩ } ∧
      (∀ m, exec (.delay m) s = .next { s with
        k := if m = 0 then none else some ⟨s.now + m.toNat * s.cfg.tickDiv, 4⟩ }))

/-- The last segment of every op whose wait is over (the same rules): CMD and a data op with LAST = 1 raise CS_N when the
hold time after the last SCLK fall is over; a data op with LAST = 0 ends with its byte, SCLK low; FILL with bytes
left goes round its loop; RESET and DELAY end with their last wait. -/
def Obligations.OpsEndAsWritten : Prop :=
  ∀ (s : State) (w : Nat), s.cfg.Valid →
    (afterEdge s.tSclkFall s.cfg.tCsh ≤ s.now →
      (s.k = some ⟨w, 42⟩ → ∀ b, exec (.cmd b) s = .next { s with csN := true, tCsRise := some s.now, k := none }) ∧
      (s.k = some ⟨w, 40⟩ → ∀ b x y,
        exec (.data true b) s = .next { s with csN := true, tCsRise := some s.now, k := none } ∧
        exec (.pix true x y) s = .next { s with csN := true, tCsRise := some s.now, k := none }) ∧
      (s.k = some ⟨w, 42⟩ → ∀ n c, n ≠ 0 →
        exec (.fill n true c) s = .next { s with csN := true, tCsRise := some s.now, k := none })) ∧
    (s.k = some ⟨w, 39⟩ → ∀ b x y,
      exec (.data false b) s = .next { s with sclk := false, tSclkFall := some s.now, k := none } ∧
      exec (.pix false x y) s = .next { s with sclk := false, tSclkFall := some s.now, k := none }) ∧
    (s.k = some ⟨w, 40⟩ → ∀ n l c, n ≠ 0 →
      (s.rem ≤ 1 → exec (.fill n false c) s =
        .next { s with rem := 0, sclk := false, tSclkFall := some s.now, k := none }) ∧
      (1 < s.rem → exec (.fill n l c) s = .next { s with
        rem := s.rem - 1, sclk := false, mosi := false, tSclkFall := some s.now,
        k := some ⟨s.now + s.cfg.sckHalf, 10⟩ })) ∧
    (s.k = some ⟨w, 9⟩ → exec .reset s = .next { s with k := none }) ∧
    (s.k = some ⟨w, 4⟩ → ∀ m, exec (.delay m) s = .next { s with k := none })

/-- 40_framer.md R139: NOP does nothing and ends in its first segment; no other word with opcode 0x0 is legal. -/
def Obligations.NopEndsInItsFirstSegment : Prop :=
  (∀ s : State, startsNext s → exec .nop s = .next { s with k := none }) ∧
  (∀ w : Word, opcodeOf w = 0x0 → (decode w = some .nop ↔ w = 0x00000000) ∧ (w ≠ 0x00000000 → legal w = false))

/-- 40_framer.md R136: CMD, whether or not a data transaction is open when it starts, runs to its end at the edge
`cmdEndAt` (70_reset_and_hazards.md R305), leaving CS_N high, DC and SCLK low and MOSI at bit 0. -/
def Obligations.CmdRunsToItsEnd : Prop :=
  ∀ (s : State) (b : Byte), s.cfg.Valid → startsNext s → ∃ u t,
    opRun (.cmd b) (cmdEndAt s - 1 - s.cycle) s = .next u ∧ u.now = cmdEndAt s ∧ exec (.cmd b) u = .next t ∧
    t.k = none ∧ t.csN = true ∧ t.dc = false ∧ t.sclk = false ∧ t.mosi = b.getLsbD 0 ∧
    t.tCsRise = some (cmdEndAt s) ∧ t.tSclkFall = some (cmdByteAt s + byteCycles s.cfg) ∧
    ErrorsKept s t ∧ WaitKept s t ∧ t.rem = s.rem ∧ t.rstN = s.rstN ∧ t.cur = s.cur

/-- 40_framer.md R137: DATA, in an open or a closed state, runs to its end at `dataEndAt` with its one byte sent: CS_N
high exactly when LAST = 1. -/
def Obligations.DataRunsToItsEnd : Prop :=
  ∀ (s : State) (l : Bool) (b : Byte), s.cfg.Valid → startsNext s → ∃ u t,
    opRun (.data l b) (dataEndAt s 1 l - 1 - s.cycle) s = .next u ∧ u.now = dataEndAt s 1 l ∧
    exec (.data l b) u = .next t ∧
    t.k = none ∧ t.csN = l ∧ t.dc = (if s.csN then true else s.dc) ∧ t.sclk = false ∧ t.mosi = b.getLsbD 0 ∧
    t.tCsRise = (if l then some (dataEndAt s 1 l) else s.tCsRise) ∧
    t.tSclkFall = some (dataByteAt s + byteCycles s.cfg) ∧
    ErrorsKept s t ∧ WaitKept s t ∧ t.rem = s.rem ∧ t.rstN = s.rstN ∧ t.cur = s.cur

/-- 41_codec.md R165: PIX runs as DATA does with the packed byte. -/
def Obligations.PixRunsToItsEnd : Prop :=
  ∀ (s : State) (l : Bool) (x y : Colour), s.cfg.Valid → startsNext s → ∃ u t,
    opRun (.pix l x y) (dataEndAt s 1 l - 1 - s.cycle) s = .next u ∧ u.now = dataEndAt s 1 l ∧
    exec (.pix l x y) u = .next t ∧
    t.k = none ∧ t.csN = l ∧ t.dc = (if s.csN then true else s.dc) ∧ t.sclk = false ∧ t.mosi = y.getLsbD 0 ∧
    t.tCsRise = (if l then some (dataEndAt s 1 l) else s.tCsRise) ∧
    t.tSclkFall = some (dataByteAt s + byteCycles s.cfg) ∧
    ErrorsKept s t ∧ WaitKept s t ∧ t.rem = s.rem ∧ t.rstN = s.rstN ∧ t.cur = s.cur

/-- 41_codec.md R166: FILL runs to its end after COUNT bytes with a continuous clock, `rem` back at 0. -/
def Obligations.FillRunsToItsEnd : Prop :=
  ∀ (s : State) (n : BitVec 16) (l : Bool) (c : Colour), s.cfg.Valid → startsNext s → n ≠ 0 → ∃ u t,
    opRun (.fill n l c) (dataEndAt s n.toNat l - 1 - s.cycle) s = .next u ∧ u.now = dataEndAt s n.toNat l ∧
    exec (.fill n l c) u = .next t ∧
    t.k = none ∧ t.csN = l ∧ t.dc = (if s.csN then true else s.dc) ∧ t.sclk = false ∧ t.mosi = c.getLsbD 0 ∧
    t.tCsRise = (if l then some (dataEndAt s n.toNat l) else s.tCsRise) ∧
    t.tSclkFall = some (dataByteAt s + byteCycles s.cfg * n.toNat) ∧ t.rem = 0 ∧
    ErrorsKept s t ∧ WaitKept s t ∧ t.rstN = s.rstN ∧ t.cur = s.cur

/-- 43_reset_timer.md R201, R202 and R204: RESET runs to its end with exactly three reset events, RST(1), RST(0), RST(1), at
the edges its durations give, CS_N high and RST_N at 1. -/
def Obligations.ResetDrivesHighLowHigh : Prop :=
  ∀ s : State, s.cfg.Valid → startsNext s →
    let c := s.cfg
    let f := autoClosedAt s s.now
    let e := f + (c.rstH1Ms + c.rstLMs + c.rstH2Ms) * c.tickDiv
    ∃ u t, opRun .reset (e - 1 - s.cycle) s = .next u ∧ u.now = e ∧ exec .reset u = .next t ∧
      t.k = none ∧ t.csN = true ∧ t.rstN = true ∧ t.tCsRise = riseSeen s s.now ∧
      resetEvents .reset (e - s.cycle) s =
        [(true, f), (false, f + c.rstH1Ms * c.tickDiv), (true, f + (c.rstH1Ms + c.rstLMs) * c.tickDiv)] ∧
      ErrorsKept s t ∧ WaitKept s t ∧ WireKept s t ∧ t.rem = s.rem ∧ t.cur = s.cur

/-- 43_reset_timer.md R203: DELAY runs to its end exactly `MS * TICK_DIV` cycles after its first segment, or after its
auto-close, and changes no pin but CS_N by the auto-close. -/
def Obligations.DelayWaitsItsMilliseconds : Prop :=
  ∀ (s : State) (m : BitVec 20), s.cfg.Valid → startsNext s →
    let e := autoClosedAt s s.now + m.toNat * s.cfg.tickDiv
    ∃ u t, opRun (.delay m) (e - 1 - s.cycle) s = .next u ∧ u.now = e ∧ exec (.delay m) u = .next t ∧
      t.k = none ∧ t.csN = true ∧ t.tCsRise = riseSeen s s.now ∧
      ErrorsKept s t ∧ WaitKept s t ∧ WireKept s t ∧ t.rem = s.rem ∧ t.rstN = s.rstN ∧ t.cur = s.cur

/-- 42_busy_wait.md R186, the first pass of the loop, CS_N high or closed in the same segment: one sample is counted, and
the op ends if it completes the debounce, or sleeps `POLL_MS`. -/
def Obligations.WaitIdleTakesItsFirstSample : Prop :=
  ∀ s : State, startsNext s → (s.csN = true ∨ afterEdge s.tSclkFall s.cfg.tCsh ≤ s.now) →
    let n := if s.bsync2 = s.cfg.busyIdleLevel then 1 else 0
    exec .waitidle s = .next { s with
      csN := true
      tCsRise := if s.csN then s.tCsRise else some s.now
      elapsed := 0
      polls := 1
      idleCnt := n
      k := if s.cfg.debounceN ≤ n then none else some ⟨s.now + s.cfg.pollMs * s.cfg.tickDiv, pollWakeIndex⟩ }

/-- 42_busy_wait.md R184 and R186, each later pass: the sleep is added to the elapsed time; at the bound TIMEOUT is raised
without a further sample; otherwise one more sample is counted, an idle one adding to the count and a busy one
restarting it. -/
def Obligations.WaitIdleSamplesAgainOrTimesOut : Prop :=
  ∀ (s : State) (w : Nat), s.k = some ⟨w, pollWakeIndex⟩ →
    let e := s.elapsed + s.cfg.pollMs
    let n := if s.bsync2 = s.cfg.busyIdleLevel then s.idleCnt + 1 else 0
    (s.cfg.timeoutMs ≤ e → exec .waitidle s = .next { s with
      elapsed := e
      err := true
      errcode := if s.err then s.errcode else 1
      errinfo := if s.err then s.errinfo else s.cur
      q := []
      eng := .idle
      k := none }) ∧
    (e < s.cfg.timeoutMs → exec .waitidle s = .next { s with
      elapsed := e
      polls := s.polls + 1
      idleCnt := n
      k := if s.cfg.debounceN ≤ n then none else some ⟨s.now + s.cfg.pollMs * s.cfg.tickDiv, pollWakeIndex⟩ })

/-- 42_busy_wait.md R185 and R188: whatever the busy line does, WAIT_IDLE ends, by a completed debounce or, after exactly
K samples and K sleeps, by TIMEOUT; it never takes more than K samples. -/
def Obligations.WaitIdleAlwaysEnds : Prop :=
  ∀ s : State, s.cfg.Valid → startsNext s →
    let f := autoClosedAt s s.now
    ∃ j u t, j ≤ maxSamples s.cfg ∧ opRun .waitidle (f + j * pollCycles s.cfg - 1 - s.cycle) s = .next u ∧
      u.now = f + j * pollCycles s.cfg ∧ exec .waitidle u = .next t ∧ t.k = none ∧ t.csN = true ∧
      ((j < maxSamples s.cfg ∧ s.cfg.debounceN ≤ t.idleCnt ∧ t.polls = BitVec.ofNat 32 (j + 1) ∧ ErrorsKept s t) ∨
        (j = maxSamples s.cfg ∧ t.polls = BitVec.ofNat 32 j ∧ t.err = true ∧ t.eng = .idle ∧ t.q = [] ∧
          (s.err = false → t.errcode = 1 ∧ t.errinfo = s.cur)))

/-- 42_busy_wait.md R187 and R188: when the busy line never reads idle during the wait, WAIT_IDLE takes exactly K samples
and raises TIMEOUT at edge F + K * P. -/
def Obligations.WaitIdleTimesOutWhenAlwaysBusy : Prop :=
  ∀ s : State, s.cfg.Valid → startsNext s → s.err = false →
    let f := autoClosedAt s s.now
    let e := f + maxSamples s.cfg * pollCycles s.cfg
    s.bsync1 ≠ s.cfg.busyIdleLevel → s.bsync2 ≠ s.cfg.busyIdleLevel → e ≤ s.inputs.length →
    (∀ inp ∈ s.inputs, inp.busy ≠ s.cfg.busyIdleLevel) →
    ∃ u t, opRun .waitidle (e - 1 - s.cycle) s = .next u ∧ u.now = e ∧ exec .waitidle u = .next t ∧
      t.polls = BitVec.ofNat 32 (maxSamples s.cfg) ∧ t.err = true ∧ t.errcode = 1 ∧ t.errinfo = s.cur ∧
      t.q = [] ∧ t.eng = .idle ∧ t.k = none

/-! ### The wire -/

/-- 40_framer.md R136: the wire trace of CMD is one command transaction with its byte, after what is left of a data
transaction that it closes. How the trace reads its first and last cycles is the model's choice (log entry 9). -/
def Obligations.CmdSendsOneCommandTransaction : Prop :=
  ∀ (s : State) (b : Byte), s.cfg.Valid → startsNext s →
    wireTrace (opPins (.cmd b) (cmdEndAt s - s.cycle) s) =
      (if s.csN then [] else [⟨kindOf s.dc, []⟩]) ++ [⟨.command, [b]⟩]

/-- 40_framer.md R137, R138 and 41_codec.md R165: DATA and PIX put exactly their byte on the wire, in a data transaction of
their own or in the one that is open. How the trace reads its first and last cycles is the model's choice (log
entry 9). -/
def Obligations.DataAndPixSendTheirByte : Prop :=
  ∀ (s : State) (l : Bool), s.cfg.Valid → startsNext s →
    (∀ b : Byte, wireTrace (opPins (.data l b) (dataEndAt s 1 l - s.cycle) s) =
      [⟨if s.csN then .data else kindOf s.dc, [b]⟩]) ∧
    (∀ x y : Colour, wireTrace (opPins (.pix l x y) (dataEndAt s 1 l - s.cycle) s) =
      [⟨if s.csN then .data else kindOf s.dc, [pack x y]⟩])

/-- 41_codec.md R166: FILL puts its colour's fill byte COUNT times on the wire, in one transaction. How the
trace reads its first and last cycles is the model's choice (log entry 9). -/
def Obligations.FillSendsItsByteCountTimes : Prop :=
  ∀ (s : State) (n : BitVec 16) (l : Bool) (c : Colour), s.cfg.Valid → startsNext s → n ≠ 0 →
    wireTrace (opPins (.fill n l c) (dataEndAt s n.toNat l - s.cycle) s) =
      [⟨if s.csN then .data else kindOf s.dc, List.replicate n.toNat (fillByte c)⟩]

/-! ### Host programs -/

/-- From 44_host_sequences.md R227 and R234: the 14 words of the refresh and the words of the deep-sleep program, with
their traces; the traces of the init program (R226) and of the flood fill (R231) by 40_framer.md R140; and the golden check
of a run accepts exactly the runs that give the trace of the table's init program. In a trace `eventsOf` an `idleWait`
is one WAIT_IDLE; where it stands among the transactions is the model's reading (log entry 9). -/
def Obligations.HostProgramWordsAndTraces : Prop :=
  ∀ p : PanelTable,
    let cmd (b : Byte) : Event := .transaction ⟨.command, [b]⟩
    let data (bs : List Byte) : Event := .transaction ⟨.data, bs⟩
    let refresh : List Event :=
      [cmd 0x04, .idleWait, cmd 0x06, data [p.p06.1, p.p06.2.1, p.p06.2.2.1, p.p06.2.2.2], .idleWait,
        cmd 0x12, data [0x00], .idleWait, cmd 0x02, data [0x00], .idleWait]
    let init : List Event :=
      [.rst true, .rst false, .rst true, .idleWait, .delay 30] ++
        p.initTable.flatMap (fun e => [cmd e.1, data e.2]) ++ [cmd 0x04, .idleWait]
    (refreshOps p).map encode =
      [0x10000004, 0x60000000, 0x10000006, 0x20000000 ||| p.p06.1.setWidth 32, 0x20000000 ||| p.p06.2.1.setWidth 32,
        0x20000000 ||| p.p06.2.2.1.setWidth 32, 0x20000100 ||| p.p06.2.2.2.setWidth 32, 0x60000000, 0x10000012,
        0x20000100, 0x60000000, 0x10000002, 0x20000100, 0x60000000] ∧
    eventsOf (refreshOps p) = refresh ∧
    transactionsOf (refreshOps p) = refresh.filterMap Event.transaction? ∧
    (sleepOps p).map encode = [0x10000007, 0x20000100 ||| p.p07.setWidth 32] ∧
    eventsOf (sleepOps p) = [cmd 0x07, data [p.p07]] ∧
    transactionsOf (sleepOps p) = [⟨.command, [0x07]⟩, ⟨.data, [p.p07]⟩] ∧
    (p.wf = true → eventsOf (initOps p) = init ∧
      transactionsOf (initOps p) =
        p.initTable.flatMap (fun e => [⟨.command, [e.1]⟩, ⟨.data, e.2⟩]) ++ [⟨.command, [0x04]⟩]) ∧
    (∀ (n : Nat) (s : State), initRunIsGolden p n s = true ↔ observe n s = init) ∧
    (∀ c, eventsOf (floodOps p c) =
      [cmd p.opcDtm] ++ List.replicate 480 (data (List.replicate 400 (fillByte c))) ++ refresh)

/-- 44_host_sequences.md R230 and R231: a buffer of another length than 192,000 bytes is rejected before the first op word;
one of that length is sent as the start command, 480 rows of 400 data ops with LAST on the last of each, and the
refresh; a flood fill is the start command, 480 FILLs of 400 bytes and the refresh. R232: a
striped pattern, whose ranges may be empty, is taken exactly if the ends of its ranges do not fall and the last is 480
(DEDUCED, log entry 16), and is the flood fill in which every row of a range has the colour of the range. -/
def Obligations.FramesAreSentRowByRow : Prop :=
  ∀ p : PanelTable,
    (∀ buf : List Byte, buf.length ≠ 192000 → transferOps p buf = none) ∧
    (∀ buf : List Byte, buf.length = 192000 → ∃ rows : List (List Byte),
      rows.length = 480 ∧ (∀ r ∈ rows, r.length = 400) ∧ rows.flatten = buf ∧
      transferOps p buf = some ([.cmd p.opcDtm] ++
        rows.flatMap (fun r => r.dropLast.map (.data false) ++ (r.getLast?.toList.map (.data true))) ++ refreshOps p)) ∧
    (∀ c : Colour, floodOps p c = [.cmd p.opcDtm] ++ List.replicate 480 (.fill 400 true c) ++ refreshOps p) ∧
    (∀ ranges : List (Nat × Colour),
      let bounds := 0 :: ranges.map Prod.fst
      ((stripeOps p ranges).isSome = true ↔ bounds.Pairwise (· ≤ ·) ∧ bounds.getLast? = some 480) ∧
      ∀ ops, stripeOps p ranges = some ops → ∃ cs : List Colour,
        cs.length = 480 ∧ ops = [.cmd p.opcDtm] ++ cs.map (.fill 400 true ·) ++ refreshOps p ∧
        ∀ (j y y' : Nat) (c : Colour), bounds[j]? = some y → ranges[j]? = some (y', c) →
          ∀ row, y ≤ row → row < y' → cs[row]? = some c)

/-- 44_host_sequences.md R229: byte `i` of a frame holds the pixels of row `i div 400` at columns `2 * (i mod 400)` and the
next, and every pixel of the panel has its byte. -/
def Obligations.FrameBytesHoldTheirPixels : Prop :=
  ∀ image : Nat → Nat → Colour,
    (frameOf image).length = 192000 ∧
    (∀ x y, x < 800 → y < 480 →
      ∃ b, (frameOf image)[frameIndex x y]? = some b ∧ frameRow (frameIndex x y) = y ∧
        frameColumn (frameIndex x y) = x - x % 2 ∧
        (if x % 2 = 0 then b.extractLsb' 4 3 = image y x else b.extractLsb' 0 3 = image y x))

/-- 44_host_sequences.md R224, R235 to R237 and 70_reset_and_hazards.md R298, R299, by the model's checker (log
entry 12), for a start opcode that is none of the busy-causing ones. The init program is what an uninitialised or
sleeping panel accepts, and leaves it ready; refresh, flood fills, striped patterns and transfers lead from ready to
ready with no transaction open, deep sleep to asleep; every session that keeps the lifecycle keeps every duty. A wait
where none is owed is refused, and so is any op of the panel where one is owed; before RESET an uninitialised or
sleeping panel takes none; a call before `init`, and a second `init`, break the lifecycle; a program that ends with a
transaction open does not keep the duties. Where DELAY may stand is the model's choice (log entry 14).
70_reset_and_hazards.md R295: a session is booted with the boot call, and goes on until an `init` has succeeded only to
`init`, after one has, to any frame operation whose arguments are taken. It goes on to a call only when the last has
ended (44_host_sequences.md R223). The model's choice: the boot call leaves out R295's optional steps (log entry 17); a
failed `init` is written again whole or not at all, 60_exceptions.md R258 leaving the point to the host, and what a
failed frame operation or deep sleep leaves (log entry 15). -/
def Obligations.ProgramsPutTheirWaits : Prop :=
  ∀ (p : PanelTable), p.opcDtm ∉ [0x04, 0x06, 0x12, 0x02, 0x07] →
    dutyAfter p .uninitialised (initOps p) = some (.ready false) ∧
    dutyAfter p .asleep (initOps p) = some (.ready false) ∧
    (∀ opened,
      dutyAfter p (.ready opened) (refreshOps p) = some (.ready false) ∧
      (∀ c, dutyAfter p (.ready opened) (floodOps p c) = some (.ready false)) ∧
      (∀ ranges ops, stripeOps p ranges = some ops → dutyAfter p (.ready opened) ops = some (.ready false)) ∧
      (∀ buf ops, transferOps p buf = some ops → dutyAfter p (.ready opened) ops = some (.ready false)) ∧
      dutyAfter p (.ready opened) (sleepOps p) = some .asleep ∧
      Duty.after p (.ready opened) .waitidle = none) ∧
    (∀ sent, Duty.after p (.frame sent) .waitidle = none) ∧
    (∀ calls opss, sessionOps p .fresh calls = some opss → keepsDuties p .uninitialised opss.flatten = true) ∧
    (∀ i rest, i ≠ .nop → i ≠ .waitidle → (∀ m, i ≠ .delay m) → Duty.after p (.owing (.waitidle :: rest)) i = none) ∧
    (∀ i d, d = .uninitialised ∨ d = .asleep → i ≠ .nop → i ≠ .reset → (∀ m, i ≠ .delay m) →
      Duty.after p d i = none) ∧
    (∀ call, call ≠ .init → Life.after .fresh call = none ∧ Life.after .asleep call = none) ∧
    Life.after .ready .init = none ∧
    (∀ ops, dutyAfter p .uninitialised ops = some (.ready true) → keepsDuties p .uninitialised ops = false) ∧
    (p.wf = true → Session.boot p = some ⟨.fresh, .init, .begin 0 (bootCall p)⟩) ∧
    (∀ (g : Session) (c : Call), (∀ r, g.host.phase ≠ .done r) → g.next p c = none) ∧
    (∀ (g : Session) (c : Call) (r : CallResult), g.host.phase = .done r → r ≠ .success → g.call = .init →
      g.life ≠ .ready → c ≠ .init → g.next p c = none) ∧
    (∀ (g g' : Session) (c : Call), g.next p c = some g' →
      g'.call = c ∧ some g'.life = g.lifeNow ∧ (g'.life = .fresh ∨ g'.life = .asleep → c = .init) ∧
      ∃ ops before, c.ops p = some ops ∧ g'.host.call = before ++ callOf ops) ∧
    (∀ (g g' : Session) (point : Nat), g.again point = some g' →
      g'.call = g.call ∧ g'.life = g.life ∧ (g.call = .init → point = 0 ∧ g'.host.call.tail = g.host.call)) ∧
    (∀ (g : Session) (c : Call) (ops : List Instr), g.host.phase = .done .success → g.call = .init →
      g.life = .fresh ∨ g.life = .asleep → c ≠ .init → c.ops p = some ops → ∃ g', g.next p c = some g' ∧ g'.life = .ready)

/-- 30_encoding.md R120 and R121: what each line of assembly becomes, and that a field out of range is refused, as is a
`cmdd` or `send` without a byte. -/
def Obligations.AssemblerGivesTheWords : Prop :=
  let byteWords (bs : List Nat) : List HostAction :=
    bs.dropLast.map (fun b => .op (0x20000000 + BitVec.ofNat 32 b)) ++
      bs.getLast?.toList.map (fun b => .op (0x20000100 + BitVec.ofNat 32 b))
  (∀ b, assemble (.cmd b) = if b ≤ 255 then some [.op (0x10000000 + BitVec.ofNat 32 b)] else none) ∧
  (∀ l b, assemble (.data l b) =
    if b ≤ 255 then some [.op (0x20000000 + (if l then 0x100 else 0) + BitVec.ofNat 32 b)] else none) ∧
  (∀ l x y, assemble (.pix l x y) =
    if x ≤ 7 ∧ y ≤ 7 then
      some [.op (0x30000000 + (if l then 0x100 else 0) + BitVec.ofNat 32 (16 * x) + BitVec.ofNat 32 y)] else none) ∧
  (∀ l c n, assemble (.fill l c n) =
    if c ≤ 7 ∧ 1 ≤ n ∧ n ≤ 65535 then
      some [.op (0x40000000 + BitVec.ofNat 32 (4096 * n) + (if l then 0x100 else 0) + BitVec.ofNat 32 c)] else none) ∧
  (∀ m, assemble (.delay m) = if m ≤ 1048575 then some [.op (0x70000000 + BitVec.ofNat 32 m)] else none) ∧
  assemble .nop = some [.op 0x00000000] ∧ assemble .reset = some [.op 0x50000000] ∧
  assemble .waitidle = some [.op 0x60000000] ∧ assemble .start = some [.ctrl 0x00000001] ∧
  assemble .sync = some [.sync] ∧
  (∀ opc bs, assemble (.cmdd opc bs) =
    if bs ≠ [] ∧ opc ≤ 255 ∧ ∀ b ∈ bs, b ≤ 255 then
      some (.op (0x10000000 + BitVec.ofNat 32 opc) :: byteWords bs) else none) ∧
  (∀ bs, assemble (.send bs) = if bs ≠ [] ∧ ∀ b ∈ bs, b ≤ 255 then some (byteWords bs) else none) ∧
  (∀ c, assemble (.row c) = if c ≤ 7 then some [.op (0x40190100 + BitVec.ofNat 32 c)] else none)

/-- 44_host_sequences.md R221 and R220: a host that writes op words only within the credit of its last STATUS read never overflows
the queue, and its credit stays within the free places, whatever the block does; a call it begins after another keeps
that too; and a call that succeeds ends in a cycle with IDLE = 1 and ERR = 0. R237 and 60_exceptions.md R258: after a call that failed the first thing it does is to write STATUS with bit
5 set and nothing else, whether it goes on to a new call or writes the failed one again; and it writes that one again
from no later point than the actions known to be over, a count that does not change while ERR = 1 and leaves out as many
of the op words made as STATUS shows in the queue or running, so that every word flushed or dropped is written again. The host is the model's (log entry 11). -/
def Obligations.FlowControlNeverOverflows : Prop :=
  (∀ (h h' : HostState) (s s' : State) (busy : Bool), s.cfg.Valid → s.q.length ≤ s.cfg.qdepth → CreditFits h s →
    loopEdge busy h s = (h', .next s') →
    CreditFits h' s' ∧ (∀ w, offer s h.access ≠ .overflow w) ∧
    (h.sure ≤ h.made → h'.sure ≤ h'.made) ∧ (s.err = true → h'.sure = h.sure) ∧
    (h'.sure ≠ h.sure → h'.sure = 0 ∨ s.q.length + (if s.eng = .idle then 0 else 1) ≤
      (((h.call.take h.made).drop h'.sure).filter HostAction.isOp).length) ∧
    (h.phase = .running → h.todo ≠ [] → h'.phase = .done .success → s.isIdle = true ∧ s.err = false)) ∧
  (∀ (h h' : HostState) (call : List HostAction) (s : State), s.q.length ≤ s.cfg.qdepth →
    h.nextCall call = some h' →
    CreditFits h' s ∧ h'.sure ≤ h'.made ∧
    (h.mustClear = true → h'.access = some (.write 0x04 0x20) ∧ h'.call.tail = call) ∧
    (h.mustClear = false → h'.call = call)) ∧
  (∀ (h h' : HostState) (point : Nat), h.writeAgain point = some h' →
    point ≤ h.sure ∧ h.nextCall (h.call.drop point) = some h' ∧ h'.access = some (.write 0x04 0x20))
end

