-- ==== Sys2Proof/Laws/Decode.lean ====
section
/-! SUPPORT. Op words as numbers: concatenation, fields and the encoder in arithmetic, which omega can use. -/

namespace Sys2Proof

theorem append_toNat {m n : Nat} (x : BitVec m) (y : BitVec n) : (x ++ y).toNat = x.toNat * 2 ^ n + y.toNat := by
  rw [BitVec.toNat_append, ← Nat.shiftLeft_add_eq_or_of_lt y.isLt, Nat.shiftLeft_eq]

theorem field_toNat (w : Word) (start len : Nat) :
    (w.extractLsb' start len).toNat = w.toNat / 2 ^ start % 2 ^ len := by
  rw [BitVec.extractLsb'_toNat, Nat.shiftRight_eq_div_pow]

theorem bit1_toNat (b : Bool) : (bit1 b).toNat = b.toNat := by cases b <;> rfl

/-- A field compared with a constant, as numbers. -/
theorem field_eq {n : Nat} (x y : BitVec n) : (x == y) = decide (x.toNat = y.toNat) := by
  by_cases h : x = y
  · simp [h]
  · have h' : x.toNat ≠ y.toNat := fun e => h (BitVec.eq_of_toNat_eq e)
    simp [h, h']

/-- One bit of a word, as a number. -/
theorem bit_eq (w : Word) (i : Nat) : w.getLsbD i = decide (w.toNat / 2 ^ i % 2 = 1) := by
  rw [BitVec.getLsbD, Nat.testBit_eq_decide_div_mod_eq]

/-- The words of the ops as numbers (30_encoding.md R102 to R109, R120). -/
def encodedNat : Instr → Nat
  | .nop => 0
  | .cmd byte => 0x10000000 + byte.toNat
  | .data last byte => 0x20000000 + 256 * last.toNat + byte.toNat
  | .pix last left right => 0x30000000 + 256 * last.toNat + 16 * left.toNat + right.toNat
  | .fill count last color => 0x40000000 + 4096 * count.toNat + 256 * last.toNat + color.toNat
  | .reset => 0x50000000
  | .waitidle => 0x60000000
  | .delay ms => 0x70000000 + ms.toNat

theorem encode_toNat (i : Instr) : (encode i).toNat = encodedNat i := by
  cases i <;> simp only [encode, encodedNat, append_toNat, bit1_toNat] <;> simp <;> omega

end Sys2Proof
end

