-- ==== Sys2Proof/Laws/Duties.lean ====
section
/-! SUPPORT. What the checker of a host's duties does over a sequence of ops, what the trace of a sequence of ops is made
of, and what a host's and a session's next call can be. -/

namespace Sys2Proof.Machine

/-! ### The duties -/

@[simp] theorem dutyAfter_nil (p : PanelTable) (d : Duty) : dutyAfter p d [] = some d := rfl

theorem dutyAfter_cons (p : PanelTable) (d : Duty) (i : Instr) (is : List Instr) :
    dutyAfter p d (i :: is) = (d.after p i).bind (dutyAfter p · is) := by
  simp only [dutyAfter]
  cases d.after p i <;> rfl

/-- A sequence is checked part by part. -/
theorem dutyAfter_append (p : PanelTable) (d : Duty) (is js : List Instr) :
    dutyAfter p d (is ++ js) = (dutyAfter p d is).bind (dutyAfter p · js) := by
  induction is generalizing d with
  | nil => rfl
  | cons i is ih =>
    rw [List.cons_append, dutyAfter_cons, dutyAfter_cons]
    cases d.after p i with
    | none => rfl
    | some d' => exact ih d'

@[simp] theorem takeOwed_nil (i : Instr) (more : List Instr → Duty) (done : Duty) : takeOwed [] i more done = none := rfl

theorem takeOwed_cons (i j : Instr) (rest : List Instr) (more : List Instr → Duty) (done : Duty) :
    takeOwed (j :: rest) i more done =
      if asData i = j then some (if rest.isEmpty then done else more rest) else none := rfl

/-- An op that a duty of exact ops is stated with: an op of the panel, no NOP and no DELAY, and none that stands for
another. -/
def isOwed : Instr → Bool
  | .cmd _ => true
  | .data _ _ => true
  | .waitidle => true
  | .nop => false
  | .pix _ _ _ => false
  | .fill _ _ _ => false
  | .reset => false
  | .delay _ => false

theorem after_owing_self (p : PanelTable) (i : Instr) (rest : List Instr) (h : isOwed i = true) :
    Duty.after p (.owing (i :: rest)) i = some (if rest.isEmpty then .ready false else .owing rest) := by
  cases i <;> simp_all [isOwed, Duty.after, takeOwed, asData]

/-- Ops that are owed, made to the letter, leave nothing owed. -/
theorem dutyAfter_owing_self (p : PanelTable) (ops : List Instr) (h : ops.all isOwed = true) (hne : ops ≠ []) :
    dutyAfter p (.owing ops) ops = some (.ready false) := by
  induction ops with
  | nil => exact absurd rfl hne
  | cons i rest ih =>
    simp only [List.all_cons, Bool.and_eq_true] at h
    rw [dutyAfter_cons, after_owing_self p i rest h.1]
    cases rest with
    | nil => rfl
    | cons j rest' => exact ih h.2 (by simp)

theorem sendOps_all_owed (bs : List Byte) : (sendOps bs).all isOwed = true := by
  induction bs with
  | nil => rfl
  | cons b bs ih => cases bs <;> simp_all [sendOps, isOwed]

/-! ### Traces -/

@[simp] theorem eventsFrom_nil (opened : Option (List Byte)) : eventsFrom opened [] = closedData opened := rfl

theorem eventsFrom_cons (opened : Option (List Byte)) (i : Instr) (is : List Instr) :
    eventsFrom opened (i :: is) = (eventsOfOp opened i).1 ++ eventsFrom (eventsOfOp opened i).2 is := rfl

/-- Bytes sent as one `send` are one data transaction, with those of the transaction it finds open. -/
theorem eventsFrom_sendOps (opened : Option (List Byte)) (bs : List Byte) (is : List Instr) (h : bs ≠ []) :
    eventsFrom opened (sendOps bs ++ is) =
      .transaction ⟨.data, opened.getD [] ++ bs⟩ :: eventsFrom none is := by
  induction bs generalizing opened with
  | nil => exact absurd rfl h
  | cons b bs ih =>
    cases bs with
    | nil => simp [sendOps, eventsFrom_cons, eventsOfOp, addData]
    | cons b' bs' =>
      simp only [sendOps, List.cons_append, eventsFrom_cons, eventsOfOp, addData] at ih ⊢
      simpa [sendOps, List.append_assoc] using ih (some (opened.getD [] ++ [b])) (by simp)

/-! ### The next call -/

/-- A next call begins only after the end of a call, ERR being cleared first if that one failed. -/
theorem nextCall_eq_some {h h' : HostState} {call : List HostAction} (e : h.nextCall call = some h') :
    (∃ r, h.phase = .done r) ∧ h' = .begin h.ctrl (if h.mustClear then clearAction :: call else call) := by
  unfold HostState.nextCall at e
  split at e
  · next r hr => exact ⟨⟨r, hr⟩, (Option.some.inj e).symm⟩
  · simp at e
  · simp at e

/-- Leaving out the last `n` op words leaves out at least `n`, or everything. -/
theorem withoutOps_leaves_out (n : Nat) (as : List HostAction) :
    ∃ front, as = front ++ withoutOps n as ∧
      (withoutOps n as = [] ∨ n ≤ (front.filter HostAction.isOp).length) := by
  induction as generalizing n with
  | nil => cases n <;> exact ⟨[], rfl, .inl rfl⟩
  | cons a as ih =>
    cases n with
    | zero => exact ⟨[], rfl, .inr (Nat.zero_le _)⟩
    | succ n =>
      simp only [withoutOps]
      split
      · next h =>
        obtain ⟨front, e, hf⟩ := ih n
        exact ⟨a :: front, congrArg (a :: ·) e, hf.imp id fun hn => by simpa [h] using hn⟩
      · next h =>
        obtain ⟨front, e, hf⟩ := ih (n + 1)
        exact ⟨a :: front, congrArg (a :: ·) e, hf.imp id fun hn => by simpa [h] using hn⟩

/-- A session goes on only from the end of a call, to a call the panel's life allows and whose arguments are taken. -/
theorem session_next_eq_some {p : PanelTable} {g g' : Session} {c : Call} (e : g.next p c = some g') :
    ∃ l h ops, g.lifeNow = some l ∧ (l.after c).isSome = true ∧ c.ops p = some ops ∧
      g.host.nextCall (g.host.actions ops) = some h ∧ g' = ⟨l, c, h⟩ := by
  unfold Session.next at e
  split at e
  · simp at e
  · next l hl =>
    split at e <;> simp only [Option.map_eq_some_iff, reduceCtorEq] at e
    next l' ops h1 h2 =>
      obtain ⟨h, h3, rfl⟩ := e
      exact ⟨l, h, ops, hl, by simp [h1], h2, h3, rfl⟩

end Sys2Proof.Machine
end

