-- ==== Sys2Proof/Laws/State.lean ====
section
/-! SUPPORT. One lemma for each field of the state and each named update, true by rfl, so that no later proof unfolds a
record update. -/

namespace Sys2Proof.Machine.State

/-! ### suspend -/

@[simp] theorem suspend_en (s : State) (wake pc : Nat) : (s.suspend wake pc).en = s.en := rfl
@[simp] theorem suspend_ieDone (s : State) (wake pc : Nat) : (s.suspend wake pc).ieDone = s.ieDone := rfl
@[simp] theorem suspend_ieErr (s : State) (wake pc : Nat) : (s.suspend wake pc).ieErr = s.ieErr := rfl
@[simp] theorem suspend_done (s : State) (wake pc : Nat) : (s.suspend wake pc).done = s.done := rfl
@[simp] theorem suspend_err (s : State) (wake pc : Nat) : (s.suspend wake pc).err = s.err := rfl
@[simp] theorem suspend_errcode (s : State) (wake pc : Nat) : (s.suspend wake pc).errcode = s.errcode := rfl
@[simp] theorem suspend_errinfo (s : State) (wake pc : Nat) : (s.suspend wake pc).errinfo = s.errinfo := rfl
@[simp] theorem suspend_polls (s : State) (wake pc : Nat) : (s.suspend wake pc).polls = s.polls := rfl
@[simp] theorem suspend_q (s : State) (wake pc : Nat) : (s.suspend wake pc).q = s.q := rfl
@[simp] theorem suspend_eng (s : State) (wake pc : Nat) : (s.suspend wake pc).eng = s.eng := rfl
@[simp] theorem suspend_cur (s : State) (wake pc : Nat) : (s.suspend wake pc).cur = s.cur := rfl
@[simp] theorem suspend_k (s : State) (wake pc : Nat) : (s.suspend wake pc).k = some ⟨wake, pc⟩ := rfl
@[simp] theorem suspend_rem (s : State) (wake pc : Nat) : (s.suspend wake pc).rem = s.rem := rfl
@[simp] theorem suspend_elapsed (s : State) (wake pc : Nat) : (s.suspend wake pc).elapsed = s.elapsed := rfl
@[simp] theorem suspend_idleCnt (s : State) (wake pc : Nat) : (s.suspend wake pc).idleCnt = s.idleCnt := rfl
@[simp] theorem suspend_csN (s : State) (wake pc : Nat) : (s.suspend wake pc).csN = s.csN := rfl
@[simp] theorem suspend_dc (s : State) (wake pc : Nat) : (s.suspend wake pc).dc = s.dc := rfl
@[simp] theorem suspend_sclk (s : State) (wake pc : Nat) : (s.suspend wake pc).sclk = s.sclk := rfl
@[simp] theorem suspend_mosi (s : State) (wake pc : Nat) : (s.suspend wake pc).mosi = s.mosi := rfl
@[simp] theorem suspend_tCsRise (s : State) (wake pc : Nat) : (s.suspend wake pc).tCsRise = s.tCsRise := rfl
@[simp] theorem suspend_tSclkFall (s : State) (wake pc : Nat) : (s.suspend wake pc).tSclkFall = s.tSclkFall := rfl
@[simp] theorem suspend_rstN (s : State) (wake pc : Nat) : (s.suspend wake pc).rstN = s.rstN := rfl
@[simp] theorem suspend_bsync1 (s : State) (wake pc : Nat) : (s.suspend wake pc).bsync1 = s.bsync1 := rfl
@[simp] theorem suspend_bsync2 (s : State) (wake pc : Nat) : (s.suspend wake pc).bsync2 = s.bsync2 := rfl
@[simp] theorem suspend_cycle (s : State) (wake pc : Nat) : (s.suspend wake pc).cycle = s.cycle := rfl
@[simp] theorem suspend_cfg (s : State) (wake pc : Nat) : (s.suspend wake pc).cfg = s.cfg := rfl
@[simp] theorem suspend_inputs (s : State) (wake pc : Nat) : (s.suspend wake pc).inputs = s.inputs := rfl
@[simp] theorem suspend_draws (s : State) (wake pc : Nat) : (s.suspend wake pc).draws = s.draws := rfl

/-! ### endOp -/

@[simp] theorem endOp_en (s : State) : (s.endOp).en = s.en := rfl
@[simp] theorem endOp_ieDone (s : State) : (s.endOp).ieDone = s.ieDone := rfl
@[simp] theorem endOp_ieErr (s : State) : (s.endOp).ieErr = s.ieErr := rfl
@[simp] theorem endOp_done (s : State) : (s.endOp).done = s.done := rfl
@[simp] theorem endOp_err (s : State) : (s.endOp).err = s.err := rfl
@[simp] theorem endOp_errcode (s : State) : (s.endOp).errcode = s.errcode := rfl
@[simp] theorem endOp_errinfo (s : State) : (s.endOp).errinfo = s.errinfo := rfl
@[simp] theorem endOp_polls (s : State) : (s.endOp).polls = s.polls := rfl
@[simp] theorem endOp_q (s : State) : (s.endOp).q = s.q := rfl
@[simp] theorem endOp_eng (s : State) : (s.endOp).eng = s.eng := rfl
@[simp] theorem endOp_cur (s : State) : (s.endOp).cur = s.cur := rfl
@[simp] theorem endOp_k (s : State) : (s.endOp).k = none := rfl
@[simp] theorem endOp_rem (s : State) : (s.endOp).rem = s.rem := rfl
@[simp] theorem endOp_elapsed (s : State) : (s.endOp).elapsed = s.elapsed := rfl
@[simp] theorem endOp_idleCnt (s : State) : (s.endOp).idleCnt = s.idleCnt := rfl
@[simp] theorem endOp_csN (s : State) : (s.endOp).csN = s.csN := rfl
@[simp] theorem endOp_dc (s : State) : (s.endOp).dc = s.dc := rfl
@[simp] theorem endOp_sclk (s : State) : (s.endOp).sclk = s.sclk := rfl
@[simp] theorem endOp_mosi (s : State) : (s.endOp).mosi = s.mosi := rfl
@[simp] theorem endOp_tCsRise (s : State) : (s.endOp).tCsRise = s.tCsRise := rfl
@[simp] theorem endOp_tSclkFall (s : State) : (s.endOp).tSclkFall = s.tSclkFall := rfl
@[simp] theorem endOp_rstN (s : State) : (s.endOp).rstN = s.rstN := rfl
@[simp] theorem endOp_bsync1 (s : State) : (s.endOp).bsync1 = s.bsync1 := rfl
@[simp] theorem endOp_bsync2 (s : State) : (s.endOp).bsync2 = s.bsync2 := rfl
@[simp] theorem endOp_cycle (s : State) : (s.endOp).cycle = s.cycle := rfl
@[simp] theorem endOp_cfg (s : State) : (s.endOp).cfg = s.cfg := rfl
@[simp] theorem endOp_inputs (s : State) : (s.endOp).inputs = s.inputs := rfl
@[simp] theorem endOp_draws (s : State) : (s.endOp).draws = s.draws := rfl

/-! ### recordError -/

@[simp] theorem recordError_en (e : ErrorKind) (info : Word) (s : State) : (s.recordError e info).en = s.en := rfl
@[simp] theorem recordError_ieDone (e : ErrorKind) (info : Word) (s : State) : (s.recordError e info).ieDone = s.ieDone := rfl
@[simp] theorem recordError_ieErr (e : ErrorKind) (info : Word) (s : State) : (s.recordError e info).ieErr = s.ieErr := rfl
@[simp] theorem recordError_done (e : ErrorKind) (info : Word) (s : State) : (s.recordError e info).done = s.done := rfl
@[simp] theorem recordError_err (e : ErrorKind) (info : Word) (s : State) : (s.recordError e info).err = true := rfl
@[simp] theorem recordError_errcode (e : ErrorKind) (info : Word) (s : State) : (s.recordError e info).errcode = if s.err then s.errcode else e.code := rfl
@[simp] theorem recordError_errinfo (e : ErrorKind) (info : Word) (s : State) : (s.recordError e info).errinfo = if s.err then s.errinfo else info := rfl
@[simp] theorem recordError_polls (e : ErrorKind) (info : Word) (s : State) : (s.recordError e info).polls = s.polls := rfl
@[simp] theorem recordError_q (e : ErrorKind) (info : Word) (s : State) : (s.recordError e info).q = [] := rfl
@[simp] theorem recordError_eng (e : ErrorKind) (info : Word) (s : State) : (s.recordError e info).eng = s.eng := rfl
@[simp] theorem recordError_cur (e : ErrorKind) (info : Word) (s : State) : (s.recordError e info).cur = s.cur := rfl
@[simp] theorem recordError_k (e : ErrorKind) (info : Word) (s : State) : (s.recordError e info).k = s.k := rfl
@[simp] theorem recordError_rem (e : ErrorKind) (info : Word) (s : State) : (s.recordError e info).rem = s.rem := rfl
@[simp] theorem recordError_elapsed (e : ErrorKind) (info : Word) (s : State) : (s.recordError e info).elapsed = s.elapsed := rfl
@[simp] theorem recordError_idleCnt (e : ErrorKind) (info : Word) (s : State) : (s.recordError e info).idleCnt = s.idleCnt := rfl
@[simp] theorem recordError_csN (e : ErrorKind) (info : Word) (s : State) : (s.recordError e info).csN = s.csN := rfl
@[simp] theorem recordError_dc (e : ErrorKind) (info : Word) (s : State) : (s.recordError e info).dc = s.dc := rfl
@[simp] theorem recordError_sclk (e : ErrorKind) (info : Word) (s : State) : (s.recordError e info).sclk = s.sclk := rfl
@[simp] theorem recordError_mosi (e : ErrorKind) (info : Word) (s : State) : (s.recordError e info).mosi = s.mosi := rfl
@[simp] theorem recordError_tCsRise (e : ErrorKind) (info : Word) (s : State) : (s.recordError e info).tCsRise = s.tCsRise := rfl
@[simp] theorem recordError_tSclkFall (e : ErrorKind) (info : Word) (s : State) : (s.recordError e info).tSclkFall = s.tSclkFall := rfl
@[simp] theorem recordError_rstN (e : ErrorKind) (info : Word) (s : State) : (s.recordError e info).rstN = s.rstN := rfl
@[simp] theorem recordError_bsync1 (e : ErrorKind) (info : Word) (s : State) : (s.recordError e info).bsync1 = s.bsync1 := rfl
@[simp] theorem recordError_bsync2 (e : ErrorKind) (info : Word) (s : State) : (s.recordError e info).bsync2 = s.bsync2 := rfl
@[simp] theorem recordError_cycle (e : ErrorKind) (info : Word) (s : State) : (s.recordError e info).cycle = s.cycle := rfl
@[simp] theorem recordError_cfg (e : ErrorKind) (info : Word) (s : State) : (s.recordError e info).cfg = s.cfg := rfl
@[simp] theorem recordError_inputs (e : ErrorKind) (info : Word) (s : State) : (s.recordError e info).inputs = s.inputs := rfl
@[simp] theorem recordError_draws (e : ErrorKind) (info : Word) (s : State) : (s.recordError e info).draws = s.draws := rfl

/-! ### raise -/

@[simp] theorem raise_en (e : ErrorKind) (info : Word) (s : State) : (s.raise e info).en = s.en := rfl
@[simp] theorem raise_ieDone (e : ErrorKind) (info : Word) (s : State) : (s.raise e info).ieDone = s.ieDone := rfl
@[simp] theorem raise_ieErr (e : ErrorKind) (info : Word) (s : State) : (s.raise e info).ieErr = s.ieErr := rfl
@[simp] theorem raise_done (e : ErrorKind) (info : Word) (s : State) : (s.raise e info).done = s.done := rfl
@[simp] theorem raise_err (e : ErrorKind) (info : Word) (s : State) : (s.raise e info).err = true := rfl
@[simp] theorem raise_errcode (e : ErrorKind) (info : Word) (s : State) : (s.raise e info).errcode = if s.err then s.errcode else e.code := rfl
@[simp] theorem raise_errinfo (e : ErrorKind) (info : Word) (s : State) : (s.raise e info).errinfo = if s.err then s.errinfo else info := rfl
@[simp] theorem raise_polls (e : ErrorKind) (info : Word) (s : State) : (s.raise e info).polls = s.polls := rfl
@[simp] theorem raise_q (e : ErrorKind) (info : Word) (s : State) : (s.raise e info).q = [] := rfl
@[simp] theorem raise_eng (e : ErrorKind) (info : Word) (s : State) : (s.raise e info).eng = .idle := rfl
@[simp] theorem raise_cur (e : ErrorKind) (info : Word) (s : State) : (s.raise e info).cur = s.cur := rfl
@[simp] theorem raise_k (e : ErrorKind) (info : Word) (s : State) : (s.raise e info).k = none := rfl
@[simp] theorem raise_rem (e : ErrorKind) (info : Word) (s : State) : (s.raise e info).rem = s.rem := rfl
@[simp] theorem raise_elapsed (e : ErrorKind) (info : Word) (s : State) : (s.raise e info).elapsed = s.elapsed := rfl
@[simp] theorem raise_idleCnt (e : ErrorKind) (info : Word) (s : State) : (s.raise e info).idleCnt = s.idleCnt := rfl
@[simp] theorem raise_csN (e : ErrorKind) (info : Word) (s : State) : (s.raise e info).csN = s.csN := rfl
@[simp] theorem raise_dc (e : ErrorKind) (info : Word) (s : State) : (s.raise e info).dc = s.dc := rfl
@[simp] theorem raise_sclk (e : ErrorKind) (info : Word) (s : State) : (s.raise e info).sclk = s.sclk := rfl
@[simp] theorem raise_mosi (e : ErrorKind) (info : Word) (s : State) : (s.raise e info).mosi = s.mosi := rfl
@[simp] theorem raise_tCsRise (e : ErrorKind) (info : Word) (s : State) : (s.raise e info).tCsRise = s.tCsRise := rfl
@[simp] theorem raise_tSclkFall (e : ErrorKind) (info : Word) (s : State) : (s.raise e info).tSclkFall = s.tSclkFall := rfl
@[simp] theorem raise_rstN (e : ErrorKind) (info : Word) (s : State) : (s.raise e info).rstN = s.rstN := rfl
@[simp] theorem raise_bsync1 (e : ErrorKind) (info : Word) (s : State) : (s.raise e info).bsync1 = s.bsync1 := rfl
@[simp] theorem raise_bsync2 (e : ErrorKind) (info : Word) (s : State) : (s.raise e info).bsync2 = s.bsync2 := rfl
@[simp] theorem raise_cycle (e : ErrorKind) (info : Word) (s : State) : (s.raise e info).cycle = s.cycle := rfl
@[simp] theorem raise_cfg (e : ErrorKind) (info : Word) (s : State) : (s.raise e info).cfg = s.cfg := rfl
@[simp] theorem raise_inputs (e : ErrorKind) (info : Word) (s : State) : (s.raise e info).inputs = s.inputs := rfl
@[simp] theorem raise_draws (e : ErrorKind) (info : Word) (s : State) : (s.raise e info).draws = s.draws := rfl

/-! ### clearError -/

@[simp] theorem clearError_en (s : State) : (s.clearError).en = s.en := rfl
@[simp] theorem clearError_ieDone (s : State) : (s.clearError).ieDone = s.ieDone := rfl
@[simp] theorem clearError_ieErr (s : State) : (s.clearError).ieErr = s.ieErr := rfl
@[simp] theorem clearError_done (s : State) : (s.clearError).done = s.done := rfl
@[simp] theorem clearError_err (s : State) : (s.clearError).err = false := rfl
@[simp] theorem clearError_errcode (s : State) : (s.clearError).errcode = 0#3 := rfl
@[simp] theorem clearError_errinfo (s : State) : (s.clearError).errinfo = s.errinfo := rfl
@[simp] theorem clearError_polls (s : State) : (s.clearError).polls = s.polls := rfl
@[simp] theorem clearError_q (s : State) : (s.clearError).q = s.q := rfl
@[simp] theorem clearError_eng (s : State) : (s.clearError).eng = s.eng := rfl
@[simp] theorem clearError_cur (s : State) : (s.clearError).cur = s.cur := rfl
@[simp] theorem clearError_k (s : State) : (s.clearError).k = s.k := rfl
@[simp] theorem clearError_rem (s : State) : (s.clearError).rem = s.rem := rfl
@[simp] theorem clearError_elapsed (s : State) : (s.clearError).elapsed = s.elapsed := rfl
@[simp] theorem clearError_idleCnt (s : State) : (s.clearError).idleCnt = s.idleCnt := rfl
@[simp] theorem clearError_csN (s : State) : (s.clearError).csN = s.csN := rfl
@[simp] theorem clearError_dc (s : State) : (s.clearError).dc = s.dc := rfl
@[simp] theorem clearError_sclk (s : State) : (s.clearError).sclk = s.sclk := rfl
@[simp] theorem clearError_mosi (s : State) : (s.clearError).mosi = s.mosi := rfl
@[simp] theorem clearError_tCsRise (s : State) : (s.clearError).tCsRise = s.tCsRise := rfl
@[simp] theorem clearError_tSclkFall (s : State) : (s.clearError).tSclkFall = s.tSclkFall := rfl
@[simp] theorem clearError_rstN (s : State) : (s.clearError).rstN = s.rstN := rfl
@[simp] theorem clearError_bsync1 (s : State) : (s.clearError).bsync1 = s.bsync1 := rfl
@[simp] theorem clearError_bsync2 (s : State) : (s.clearError).bsync2 = s.bsync2 := rfl
@[simp] theorem clearError_cycle (s : State) : (s.clearError).cycle = s.cycle := rfl
@[simp] theorem clearError_cfg (s : State) : (s.clearError).cfg = s.cfg := rfl
@[simp] theorem clearError_inputs (s : State) : (s.clearError).inputs = s.inputs := rfl
@[simp] theorem clearError_draws (s : State) : (s.clearError).draws = s.draws := rfl

/-! ### writeCtrl -/

@[simp] theorem writeCtrl_en (s : State) (v : Word) : (s.writeCtrl v).en = v.getLsbD 0 := rfl
@[simp] theorem writeCtrl_ieDone (s : State) (v : Word) : (s.writeCtrl v).ieDone = v.getLsbD 4 := rfl
@[simp] theorem writeCtrl_ieErr (s : State) (v : Word) : (s.writeCtrl v).ieErr = v.getLsbD 5 := rfl
@[simp] theorem writeCtrl_done (s : State) (v : Word) : (s.writeCtrl v).done = s.done := rfl
@[simp] theorem writeCtrl_err (s : State) (v : Word) : (s.writeCtrl v).err = s.err := rfl
@[simp] theorem writeCtrl_errcode (s : State) (v : Word) : (s.writeCtrl v).errcode = s.errcode := rfl
@[simp] theorem writeCtrl_errinfo (s : State) (v : Word) : (s.writeCtrl v).errinfo = s.errinfo := rfl
@[simp] theorem writeCtrl_polls (s : State) (v : Word) : (s.writeCtrl v).polls = s.polls := rfl
@[simp] theorem writeCtrl_q (s : State) (v : Word) : (s.writeCtrl v).q = s.q := rfl
@[simp] theorem writeCtrl_eng (s : State) (v : Word) : (s.writeCtrl v).eng = s.eng := rfl
@[simp] theorem writeCtrl_cur (s : State) (v : Word) : (s.writeCtrl v).cur = s.cur := rfl
@[simp] theorem writeCtrl_k (s : State) (v : Word) : (s.writeCtrl v).k = s.k := rfl
@[simp] theorem writeCtrl_rem (s : State) (v : Word) : (s.writeCtrl v).rem = s.rem := rfl
@[simp] theorem writeCtrl_elapsed (s : State) (v : Word) : (s.writeCtrl v).elapsed = s.elapsed := rfl
@[simp] theorem writeCtrl_idleCnt (s : State) (v : Word) : (s.writeCtrl v).idleCnt = s.idleCnt := rfl
@[simp] theorem writeCtrl_csN (s : State) (v : Word) : (s.writeCtrl v).csN = s.csN := rfl
@[simp] theorem writeCtrl_dc (s : State) (v : Word) : (s.writeCtrl v).dc = s.dc := rfl
@[simp] theorem writeCtrl_sclk (s : State) (v : Word) : (s.writeCtrl v).sclk = s.sclk := rfl
@[simp] theorem writeCtrl_mosi (s : State) (v : Word) : (s.writeCtrl v).mosi = s.mosi := rfl
@[simp] theorem writeCtrl_tCsRise (s : State) (v : Word) : (s.writeCtrl v).tCsRise = s.tCsRise := rfl
@[simp] theorem writeCtrl_tSclkFall (s : State) (v : Word) : (s.writeCtrl v).tSclkFall = s.tSclkFall := rfl
@[simp] theorem writeCtrl_rstN (s : State) (v : Word) : (s.writeCtrl v).rstN = s.rstN := rfl
@[simp] theorem writeCtrl_bsync1 (s : State) (v : Word) : (s.writeCtrl v).bsync1 = s.bsync1 := rfl
@[simp] theorem writeCtrl_bsync2 (s : State) (v : Word) : (s.writeCtrl v).bsync2 = s.bsync2 := rfl
@[simp] theorem writeCtrl_cycle (s : State) (v : Word) : (s.writeCtrl v).cycle = s.cycle := rfl
@[simp] theorem writeCtrl_cfg (s : State) (v : Word) : (s.writeCtrl v).cfg = s.cfg := rfl
@[simp] theorem writeCtrl_inputs (s : State) (v : Word) : (s.writeCtrl v).inputs = s.inputs := rfl
@[simp] theorem writeCtrl_draws (s : State) (v : Word) : (s.writeCtrl v).draws = s.draws := rfl

/-! ### tick -/

@[simp] theorem tick_en (s : State) (busy : Bool) : (s.tick busy).en = s.en := rfl
@[simp] theorem tick_ieDone (s : State) (busy : Bool) : (s.tick busy).ieDone = s.ieDone := rfl
@[simp] theorem tick_ieErr (s : State) (busy : Bool) : (s.tick busy).ieErr = s.ieErr := rfl
@[simp] theorem tick_done (s : State) (busy : Bool) : (s.tick busy).done = s.done := rfl
@[simp] theorem tick_err (s : State) (busy : Bool) : (s.tick busy).err = s.err := rfl
@[simp] theorem tick_errcode (s : State) (busy : Bool) : (s.tick busy).errcode = s.errcode := rfl
@[simp] theorem tick_errinfo (s : State) (busy : Bool) : (s.tick busy).errinfo = s.errinfo := rfl
@[simp] theorem tick_polls (s : State) (busy : Bool) : (s.tick busy).polls = s.polls := rfl
@[simp] theorem tick_q (s : State) (busy : Bool) : (s.tick busy).q = s.q := rfl
@[simp] theorem tick_eng (s : State) (busy : Bool) : (s.tick busy).eng = s.eng := rfl
@[simp] theorem tick_cur (s : State) (busy : Bool) : (s.tick busy).cur = s.cur := rfl
@[simp] theorem tick_k (s : State) (busy : Bool) : (s.tick busy).k = s.k := rfl
@[simp] theorem tick_rem (s : State) (busy : Bool) : (s.tick busy).rem = s.rem := rfl
@[simp] theorem tick_elapsed (s : State) (busy : Bool) : (s.tick busy).elapsed = s.elapsed := rfl
@[simp] theorem tick_idleCnt (s : State) (busy : Bool) : (s.tick busy).idleCnt = s.idleCnt := rfl
@[simp] theorem tick_csN (s : State) (busy : Bool) : (s.tick busy).csN = s.csN := rfl
@[simp] theorem tick_dc (s : State) (busy : Bool) : (s.tick busy).dc = s.dc := rfl
@[simp] theorem tick_sclk (s : State) (busy : Bool) : (s.tick busy).sclk = s.sclk := rfl
@[simp] theorem tick_mosi (s : State) (busy : Bool) : (s.tick busy).mosi = s.mosi := rfl
@[simp] theorem tick_tCsRise (s : State) (busy : Bool) : (s.tick busy).tCsRise = s.tCsRise := rfl
@[simp] theorem tick_tSclkFall (s : State) (busy : Bool) : (s.tick busy).tSclkFall = s.tSclkFall := rfl
@[simp] theorem tick_rstN (s : State) (busy : Bool) : (s.tick busy).rstN = s.rstN := rfl
@[simp] theorem tick_bsync1 (s : State) (busy : Bool) : (s.tick busy).bsync1 = busy := rfl
@[simp] theorem tick_bsync2 (s : State) (busy : Bool) : (s.tick busy).bsync2 = s.bsync1 := rfl
@[simp] theorem tick_cycle (s : State) (busy : Bool) : (s.tick busy).cycle = s.cycle + 1 := rfl
@[simp] theorem tick_cfg (s : State) (busy : Bool) : (s.tick busy).cfg = s.cfg := rfl
@[simp] theorem tick_inputs (s : State) (busy : Bool) : (s.tick busy).inputs = s.inputs.tail := rfl
@[simp] theorem tick_draws (s : State) (busy : Bool) : (s.tick busy).draws = s.draws + 1 := rfl

/-! ### sampled -/

@[simp] theorem sampled_en (s : State) : s.sampled.en = s.en := rfl
@[simp] theorem sampled_ieDone (s : State) : s.sampled.ieDone = s.ieDone := rfl
@[simp] theorem sampled_ieErr (s : State) : s.sampled.ieErr = s.ieErr := rfl
@[simp] theorem sampled_done (s : State) : s.sampled.done = s.done := rfl
@[simp] theorem sampled_err (s : State) : s.sampled.err = s.err := rfl
@[simp] theorem sampled_errcode (s : State) : s.sampled.errcode = s.errcode := rfl
@[simp] theorem sampled_errinfo (s : State) : s.sampled.errinfo = s.errinfo := rfl
@[simp] theorem sampled_polls (s : State) : s.sampled.polls = s.polls + 1#32 := rfl
@[simp] theorem sampled_q (s : State) : s.sampled.q = s.q := rfl
@[simp] theorem sampled_eng (s : State) : s.sampled.eng = s.eng := rfl
@[simp] theorem sampled_cur (s : State) : s.sampled.cur = s.cur := rfl
@[simp] theorem sampled_k (s : State) : s.sampled.k = s.k := rfl
@[simp] theorem sampled_rem (s : State) : s.sampled.rem = s.rem := rfl
@[simp] theorem sampled_elapsed (s : State) : s.sampled.elapsed = s.elapsed := rfl
@[simp] theorem sampled_idleCnt (s : State) : s.sampled.idleCnt = if s.sampleIdle then s.idleCnt + 1 else 0 := rfl
@[simp] theorem sampled_csN (s : State) : s.sampled.csN = s.csN := rfl
@[simp] theorem sampled_dc (s : State) : s.sampled.dc = s.dc := rfl
@[simp] theorem sampled_sclk (s : State) : s.sampled.sclk = s.sclk := rfl
@[simp] theorem sampled_mosi (s : State) : s.sampled.mosi = s.mosi := rfl
@[simp] theorem sampled_tCsRise (s : State) : s.sampled.tCsRise = s.tCsRise := rfl
@[simp] theorem sampled_tSclkFall (s : State) : s.sampled.tSclkFall = s.tSclkFall := rfl
@[simp] theorem sampled_rstN (s : State) : s.sampled.rstN = s.rstN := rfl
@[simp] theorem sampled_bsync1 (s : State) : s.sampled.bsync1 = s.bsync1 := rfl
@[simp] theorem sampled_bsync2 (s : State) : s.sampled.bsync2 = s.bsync2 := rfl
@[simp] theorem sampled_cycle (s : State) : s.sampled.cycle = s.cycle := rfl
@[simp] theorem sampled_cfg (s : State) : s.sampled.cfg = s.cfg := rfl
@[simp] theorem sampled_inputs (s : State) : s.sampled.inputs = s.inputs := rfl
@[simp] theorem sampled_draws (s : State) : s.sampled.draws = s.draws := rfl

/-! ### slept -/

@[simp] theorem slept_en (s : State) : s.slept.en = s.en := rfl
@[simp] theorem slept_ieDone (s : State) : s.slept.ieDone = s.ieDone := rfl
@[simp] theorem slept_ieErr (s : State) : s.slept.ieErr = s.ieErr := rfl
@[simp] theorem slept_done (s : State) : s.slept.done = s.done := rfl
@[simp] theorem slept_err (s : State) : s.slept.err = s.err := rfl
@[simp] theorem slept_errcode (s : State) : s.slept.errcode = s.errcode := rfl
@[simp] theorem slept_errinfo (s : State) : s.slept.errinfo = s.errinfo := rfl
@[simp] theorem slept_polls (s : State) : s.slept.polls = s.polls := rfl
@[simp] theorem slept_q (s : State) : s.slept.q = s.q := rfl
@[simp] theorem slept_eng (s : State) : s.slept.eng = s.eng := rfl
@[simp] theorem slept_cur (s : State) : s.slept.cur = s.cur := rfl
@[simp] theorem slept_k (s : State) : s.slept.k = s.k := rfl
@[simp] theorem slept_rem (s : State) : s.slept.rem = s.rem := rfl
@[simp] theorem slept_elapsed (s : State) : s.slept.elapsed = s.elapsed + s.cfg.pollMs := rfl
@[simp] theorem slept_idleCnt (s : State) : s.slept.idleCnt = s.idleCnt := rfl
@[simp] theorem slept_csN (s : State) : s.slept.csN = s.csN := rfl
@[simp] theorem slept_dc (s : State) : s.slept.dc = s.dc := rfl
@[simp] theorem slept_sclk (s : State) : s.slept.sclk = s.sclk := rfl
@[simp] theorem slept_mosi (s : State) : s.slept.mosi = s.mosi := rfl
@[simp] theorem slept_tCsRise (s : State) : s.slept.tCsRise = s.tCsRise := rfl
@[simp] theorem slept_tSclkFall (s : State) : s.slept.tSclkFall = s.tSclkFall := rfl
@[simp] theorem slept_rstN (s : State) : s.slept.rstN = s.rstN := rfl
@[simp] theorem slept_bsync1 (s : State) : s.slept.bsync1 = s.bsync1 := rfl
@[simp] theorem slept_bsync2 (s : State) : s.slept.bsync2 = s.bsync2 := rfl
@[simp] theorem slept_cycle (s : State) : s.slept.cycle = s.cycle := rfl
@[simp] theorem slept_cfg (s : State) : s.slept.cfg = s.cfg := rfl
@[simp] theorem slept_inputs (s : State) : s.slept.inputs = s.inputs := rfl
@[simp] theorem slept_draws (s : State) : s.slept.draws = s.draws := rfl

/-! ### blockReset -/

@[simp] theorem blockReset_en (s : State) : s.blockReset.en = State.reset.en := rfl
@[simp] theorem blockReset_ieDone (s : State) : s.blockReset.ieDone = State.reset.ieDone := rfl
@[simp] theorem blockReset_ieErr (s : State) : s.blockReset.ieErr = State.reset.ieErr := rfl
@[simp] theorem blockReset_done (s : State) : s.blockReset.done = State.reset.done := rfl
@[simp] theorem blockReset_err (s : State) : s.blockReset.err = State.reset.err := rfl
@[simp] theorem blockReset_errcode (s : State) : s.blockReset.errcode = State.reset.errcode := rfl
@[simp] theorem blockReset_errinfo (s : State) : s.blockReset.errinfo = State.reset.errinfo := rfl
@[simp] theorem blockReset_polls (s : State) : s.blockReset.polls = State.reset.polls := rfl
@[simp] theorem blockReset_q (s : State) : s.blockReset.q = State.reset.q := rfl
@[simp] theorem blockReset_eng (s : State) : s.blockReset.eng = State.reset.eng := rfl
@[simp] theorem blockReset_cur (s : State) : s.blockReset.cur = State.reset.cur := rfl
@[simp] theorem blockReset_k (s : State) : s.blockReset.k = State.reset.k := rfl
@[simp] theorem blockReset_rem (s : State) : s.blockReset.rem = State.reset.rem := rfl
@[simp] theorem blockReset_elapsed (s : State) : s.blockReset.elapsed = State.reset.elapsed := rfl
@[simp] theorem blockReset_idleCnt (s : State) : s.blockReset.idleCnt = State.reset.idleCnt := rfl
@[simp] theorem blockReset_csN (s : State) : s.blockReset.csN = State.reset.csN := rfl
@[simp] theorem blockReset_dc (s : State) : s.blockReset.dc = State.reset.dc := rfl
@[simp] theorem blockReset_sclk (s : State) : s.blockReset.sclk = State.reset.sclk := rfl
@[simp] theorem blockReset_mosi (s : State) : s.blockReset.mosi = State.reset.mosi := rfl
@[simp] theorem blockReset_tCsRise (s : State) : s.blockReset.tCsRise = State.reset.tCsRise := rfl
@[simp] theorem blockReset_tSclkFall (s : State) : s.blockReset.tSclkFall = State.reset.tSclkFall := rfl
@[simp] theorem blockReset_rstN (s : State) : s.blockReset.rstN = State.reset.rstN := rfl
@[simp] theorem blockReset_bsync1 (s : State) : s.blockReset.bsync1 = State.reset.bsync1 := rfl
@[simp] theorem blockReset_bsync2 (s : State) : s.blockReset.bsync2 = State.reset.bsync2 := rfl
@[simp] theorem blockReset_cycle (s : State) : s.blockReset.cycle = State.reset.cycle := rfl
@[simp] theorem blockReset_cfg (s : State) : s.blockReset.cfg = s.cfg := rfl
@[simp] theorem blockReset_inputs (s : State) : s.blockReset.inputs = s.inputs.tail := rfl
@[simp] theorem blockReset_draws (s : State) : s.blockReset.draws = s.draws + 1 := rfl

end Sys2Proof.Machine.State
end

