-- ==== Sys2Proof/Laws/Ops.lean ====
section
/-! SUPPORT. What the shared operations can do: statements, segments, meanings. -/

namespace Sys2Proof.Machine

/-- The state a statement leaves. -/
def Flow.state : Flow → State
  | .go s => s
  | .skip _ s => s
  | .stop s => s

@[simp] theorem Flow.state_go (s : State) : (Flow.go s).state = s := rfl
@[simp] theorem Flow.state_skip (n : Nat) (s : State) : (Flow.skip n s).state = s := rfl
@[simp] theorem Flow.state_stop (s : State) : (Flow.stop s).state = s := rfl

@[simp] theorem now_eq (s : State) : s.now = s.cycle + 1 := rfl

/-- Every meaning is the run of the op's micro-program, and answers a next state. -/
theorem exec_eq (i : Instr) (s : State) : exec i s = .next (runProgram (programOf s.cfg i) s) := by
  cases i <;> rfl

/-- A segment that starts or resumes runs the rest of the program from the statement the continuation names. -/
theorem runProgram_at {s : State} {w pc : Nat} (h : s.k = some ⟨w, pc⟩) (p : List Stmt) :
    runProgram p s = runFrom pc 0 (p.drop pc) s := by simp [runProgram, h]

@[simp] theorem runFrom_nil (pc sk : Nat) (s : State) : runFrom pc sk [] s = s.endOp := by
  cases sk <;> rfl

@[simp] theorem runFrom_skipped (pc n : Nat) (st : Stmt) (p : List Stmt) (s : State) :
    runFrom pc (n + 1) (st :: p) s = runFrom (pc + 1) n p s := rfl

theorem runFrom_cons (pc : Nat) (st : Stmt) (p : List Stmt) (s : State) :
    runFrom pc 0 (st :: p) s =
      match doStmt pc s st with
      | .go s' => runFrom (pc + 1) 0 p s'
      | .skip n s' => runFrom (pc + 1) n p s'
      | .stop s' => s' := rfl

/-- What holds of the state before a segment and is kept by each of its statements and by the end of the op holds
after the segment. -/
theorem runFrom_keeps {P : State → Prop} (p : List Stmt)
    (hstmt : ∀ st ∈ p, ∀ pc s, P s → P (doStmt pc s st).state) (hend : ∀ s, P s → P s.endOp) :
    ∀ pc sk s, P s → P (runFrom pc sk p s) := by
  induction p with
  | nil => intro pc sk s h; simpa using hend s h
  | cons st p ih =>
    have ih' := ih fun st' h' => hstmt st' (List.mem_cons_of_mem _ h')
    intro pc sk s h
    cases sk with
    | succ n => exact ih' _ _ _ h
    | zero =>
      have h1 := hstmt st List.mem_cons_self pc s h
      rw [runFrom_cons]
      revert h1
      cases doStmt pc s st with
      | go s' => exact ih' _ _ _
      | skip n s' => exact ih' _ _ _
      | stop s' => exact id

/-- The same for the whole of a meaning. -/
theorem runProgram_keeps {P : State → Prop} (p : List Stmt)
    (hstmt : ∀ st ∈ p, ∀ pc s, P s → P (doStmt pc s st).state) (hend : ∀ s, P s → P s.endOp)
    (s : State) (h : P s) : P (runProgram p s) := by
  unfold runProgram
  split
  · exact runFrom_keeps p hstmt hend _ _ _ h
  · exact runFrom_keeps _ (fun st hst => hstmt st (List.mem_of_mem_drop hst)) hend _ _ _ h

/-- Statements that belong to the framer: they move no field but the framer's, `rem` and the continuation. -/
def Stmt.framing : Stmt → Bool
  | .setRstN _ => false
  | .pollInit => false
  | .sample => false
  | .pollWake => false
  | _ => true

theorem Untouched.refl (s : State) : Untouched s s := by constructor <;> rfl

theorem Untouched.trans {s t u : State} (h : Untouched s t) (h' : Untouched t u) : Untouched s u := by
  constructor
  · rw [h'.en, h.en]
  · rw [h'.ieDone, h.ieDone]
  · rw [h'.ieErr, h.ieErr]
  · rw [h'.done, h.done]
  · rw [h'.cur, h.cur]
  · rw [h'.bsync1, h.bsync1]
  · rw [h'.bsync2, h.bsync2]
  · rw [h'.cycle, h.cycle]
  · rw [h'.cfg, h.cfg]
  · rw [h'.inputs, h.inputs]
  · rw [h'.draws, h.draws]

theorem pollOnce_shell (pc : Nat) (s : State) : Untouched s (pollOnce pc s) := by
  unfold pollOnce; split <;> constructor <;> rfl

theorem pollAgain_shell (pc : Nat) (s : State) : Untouched s (pollAgain pc s) := by
  unfold pollAgain
  split
  · constructor <;> rfl
  · exact Untouched.trans (by constructor <;> rfl) (pollOnce_shell pc _)

theorem waitUntil_state (w pc : Nat) (s : State) :
    (waitUntil w pc s).state = s ∨ (waitUntil w pc s).state = s.suspend w pc := by
  unfold waitUntil; split
  · exact .inl rfl
  · exact .inr rfl

/-- No statement writes the shell. -/
theorem doStmt_shell (pc : Nat) (s : State) (st : Stmt) : Untouched s (doStmt pc s st).state := by
  cases st with
  | waitRise n | waitFall n =>
    rcases waitUntil_state _ pc s with h | h <;> (simp only [doStmt]; rw [h]; constructor <;> rfl)
  | sample => exact pollOnce_shell _ s
  | pollWake => exact pollAgain_shell _ s
  | skipIfHigh n | skipIfLow n | wait n | fillAgain v half back =>
    simp only [doStmt]; split <;> constructor <;> rfl
  | _ => constructor <;> rfl

/-- No segment writes the shell. -/
theorem runProgram_shell (p : List Stmt) (s : State) : Untouched s (runProgram p s) :=
  runProgram_keeps (P := Untouched s) p (fun st _ pc _ h => h.trans (doStmt_shell pc _ st))
    (fun _ h => h.trans (by constructor <;> rfl)) s (Untouched.refl s)

end Sys2Proof.Machine
end

