-- ==== Sys2Proof/Laws/Step.lean ====
section
/-! SUPPORT. What a clock edge and a step can do: the parts of an edge field by field, and the step's inversion. -/

namespace Sys2Proof.Machine

/-! ### The parts of an edge -/

@[simp] theorem setDone_en (before s : State) : (setDone before s).en = s.en := by
  unfold setDone; split <;> rfl
@[simp] theorem setDone_ieDone (before s : State) : (setDone before s).ieDone = s.ieDone := by
  unfold setDone; split <;> rfl
@[simp] theorem setDone_ieErr (before s : State) : (setDone before s).ieErr = s.ieErr := by
  unfold setDone; split <;> rfl
@[simp] theorem setDone_err (before s : State) : (setDone before s).err = s.err := by
  unfold setDone; split <;> rfl
@[simp] theorem setDone_errcode (before s : State) : (setDone before s).errcode = s.errcode := by
  unfold setDone; split <;> rfl
@[simp] theorem setDone_errinfo (before s : State) : (setDone before s).errinfo = s.errinfo := by
  unfold setDone; split <;> rfl
@[simp] theorem setDone_polls (before s : State) : (setDone before s).polls = s.polls := by
  unfold setDone; split <;> rfl
@[simp] theorem setDone_q (before s : State) : (setDone before s).q = s.q := by
  unfold setDone; split <;> rfl
@[simp] theorem setDone_eng (before s : State) : (setDone before s).eng = s.eng := by
  unfold setDone; split <;> rfl
@[simp] theorem setDone_cur (before s : State) : (setDone before s).cur = s.cur := by
  unfold setDone; split <;> rfl
@[simp] theorem setDone_k (before s : State) : (setDone before s).k = s.k := by
  unfold setDone; split <;> rfl
@[simp] theorem setDone_rem (before s : State) : (setDone before s).rem = s.rem := by
  unfold setDone; split <;> rfl
@[simp] theorem setDone_elapsed (before s : State) : (setDone before s).elapsed = s.elapsed := by
  unfold setDone; split <;> rfl
@[simp] theorem setDone_idleCnt (before s : State) : (setDone before s).idleCnt = s.idleCnt := by
  unfold setDone; split <;> rfl
@[simp] theorem setDone_csN (before s : State) : (setDone before s).csN = s.csN := by
  unfold setDone; split <;> rfl
@[simp] theorem setDone_dc (before s : State) : (setDone before s).dc = s.dc := by
  unfold setDone; split <;> rfl
@[simp] theorem setDone_sclk (before s : State) : (setDone before s).sclk = s.sclk := by
  unfold setDone; split <;> rfl
@[simp] theorem setDone_mosi (before s : State) : (setDone before s).mosi = s.mosi := by
  unfold setDone; split <;> rfl
@[simp] theorem setDone_tCsRise (before s : State) : (setDone before s).tCsRise = s.tCsRise := by
  unfold setDone; split <;> rfl
@[simp] theorem setDone_tSclkFall (before s : State) : (setDone before s).tSclkFall = s.tSclkFall := by
  unfold setDone; split <;> rfl
@[simp] theorem setDone_rstN (before s : State) : (setDone before s).rstN = s.rstN := by
  unfold setDone; split <;> rfl
@[simp] theorem setDone_bsync1 (before s : State) : (setDone before s).bsync1 = s.bsync1 := by
  unfold setDone; split <;> rfl
@[simp] theorem setDone_bsync2 (before s : State) : (setDone before s).bsync2 = s.bsync2 := by
  unfold setDone; split <;> rfl
@[simp] theorem setDone_cycle (before s : State) : (setDone before s).cycle = s.cycle := by
  unfold setDone; split <;> rfl
@[simp] theorem setDone_cfg (before s : State) : (setDone before s).cfg = s.cfg := by
  unfold setDone; split <;> rfl
@[simp] theorem setDone_inputs (before s : State) : (setDone before s).inputs = s.inputs := by
  unfold setDone; split <;> rfl
@[simp] theorem setDone_draws (before s : State) : (setDone before s).draws = s.draws := by
  unfold setDone; split <;> rfl

theorem setDone_done (before s : State) :
    (setDone before s).done = ((s.isIdle && !before.isIdle && !s.err) || s.done) := by
  unfold setDone; split <;> simp_all

@[simp] theorem raiseOverflow_en (before : State) (a : Option Access) (s : State) : (raiseOverflow before a s).en = s.en := by
  unfold raiseOverflow; split <;> rfl
@[simp] theorem raiseOverflow_ieDone (before : State) (a : Option Access) (s : State) : (raiseOverflow before a s).ieDone = s.ieDone := by
  unfold raiseOverflow; split <;> rfl
@[simp] theorem raiseOverflow_ieErr (before : State) (a : Option Access) (s : State) : (raiseOverflow before a s).ieErr = s.ieErr := by
  unfold raiseOverflow; split <;> rfl
@[simp] theorem raiseOverflow_done (before : State) (a : Option Access) (s : State) : (raiseOverflow before a s).done = s.done := by
  unfold raiseOverflow; split <;> rfl
@[simp] theorem raiseOverflow_polls (before : State) (a : Option Access) (s : State) : (raiseOverflow before a s).polls = s.polls := by
  unfold raiseOverflow; split <;> rfl
@[simp] theorem raiseOverflow_eng (before : State) (a : Option Access) (s : State) : (raiseOverflow before a s).eng = s.eng := by
  unfold raiseOverflow; split <;> rfl
@[simp] theorem raiseOverflow_cur (before : State) (a : Option Access) (s : State) : (raiseOverflow before a s).cur = s.cur := by
  unfold raiseOverflow; split <;> rfl
@[simp] theorem raiseOverflow_k (before : State) (a : Option Access) (s : State) : (raiseOverflow before a s).k = s.k := by
  unfold raiseOverflow; split <;> rfl
@[simp] theorem raiseOverflow_rem (before : State) (a : Option Access) (s : State) : (raiseOverflow before a s).rem = s.rem := by
  unfold raiseOverflow; split <;> rfl
@[simp] theorem raiseOverflow_elapsed (before : State) (a : Option Access) (s : State) : (raiseOverflow before a s).elapsed = s.elapsed := by
  unfold raiseOverflow; split <;> rfl
@[simp] theorem raiseOverflow_idleCnt (before : State) (a : Option Access) (s : State) : (raiseOverflow before a s).idleCnt = s.idleCnt := by
  unfold raiseOverflow; split <;> rfl
@[simp] theorem raiseOverflow_csN (before : State) (a : Option Access) (s : State) : (raiseOverflow before a s).csN = s.csN := by
  unfold raiseOverflow; split <;> rfl
@[simp] theorem raiseOverflow_dc (before : State) (a : Option Access) (s : State) : (raiseOverflow before a s).dc = s.dc := by
  unfold raiseOverflow; split <;> rfl
@[simp] theorem raiseOverflow_sclk (before : State) (a : Option Access) (s : State) : (raiseOverflow before a s).sclk = s.sclk := by
  unfold raiseOverflow; split <;> rfl
@[simp] theorem raiseOverflow_mosi (before : State) (a : Option Access) (s : State) : (raiseOverflow before a s).mosi = s.mosi := by
  unfold raiseOverflow; split <;> rfl
@[simp] theorem raiseOverflow_tCsRise (before : State) (a : Option Access) (s : State) : (raiseOverflow before a s).tCsRise = s.tCsRise := by
  unfold raiseOverflow; split <;> rfl
@[simp] theorem raiseOverflow_tSclkFall (before : State) (a : Option Access) (s : State) : (raiseOverflow before a s).tSclkFall = s.tSclkFall := by
  unfold raiseOverflow; split <;> rfl
@[simp] theorem raiseOverflow_rstN (before : State) (a : Option Access) (s : State) : (raiseOverflow before a s).rstN = s.rstN := by
  unfold raiseOverflow; split <;> rfl
@[simp] theorem raiseOverflow_bsync1 (before : State) (a : Option Access) (s : State) : (raiseOverflow before a s).bsync1 = s.bsync1 := by
  unfold raiseOverflow; split <;> rfl
@[simp] theorem raiseOverflow_bsync2 (before : State) (a : Option Access) (s : State) : (raiseOverflow before a s).bsync2 = s.bsync2 := by
  unfold raiseOverflow; split <;> rfl
@[simp] theorem raiseOverflow_cycle (before : State) (a : Option Access) (s : State) : (raiseOverflow before a s).cycle = s.cycle := by
  unfold raiseOverflow; split <;> rfl
@[simp] theorem raiseOverflow_cfg (before : State) (a : Option Access) (s : State) : (raiseOverflow before a s).cfg = s.cfg := by
  unfold raiseOverflow; split <;> rfl
@[simp] theorem raiseOverflow_inputs (before : State) (a : Option Access) (s : State) : (raiseOverflow before a s).inputs = s.inputs := by
  unfold raiseOverflow; split <;> rfl
@[simp] theorem raiseOverflow_draws (before : State) (a : Option Access) (s : State) : (raiseOverflow before a s).draws = s.draws := by
  unfold raiseOverflow; split <;> rfl

@[simp] theorem dispatchOp_en (free : Bool) (start : Start) (s : State) : (dispatchOp free start s).en = s.en := by
  unfold dispatchOp; split <;> (try split) <;> rfl
@[simp] theorem dispatchOp_ieDone (free : Bool) (start : Start) (s : State) : (dispatchOp free start s).ieDone = s.ieDone := by
  unfold dispatchOp; split <;> (try split) <;> rfl
@[simp] theorem dispatchOp_ieErr (free : Bool) (start : Start) (s : State) : (dispatchOp free start s).ieErr = s.ieErr := by
  unfold dispatchOp; split <;> (try split) <;> rfl
@[simp] theorem dispatchOp_done (free : Bool) (start : Start) (s : State) : (dispatchOp free start s).done = s.done := by
  unfold dispatchOp; split <;> (try split) <;> rfl
@[simp] theorem dispatchOp_err (free : Bool) (start : Start) (s : State) : (dispatchOp free start s).err = s.err := by
  unfold dispatchOp; split <;> (try split) <;> rfl
@[simp] theorem dispatchOp_errcode (free : Bool) (start : Start) (s : State) : (dispatchOp free start s).errcode = s.errcode := by
  unfold dispatchOp; split <;> (try split) <;> rfl
@[simp] theorem dispatchOp_errinfo (free : Bool) (start : Start) (s : State) : (dispatchOp free start s).errinfo = s.errinfo := by
  unfold dispatchOp; split <;> (try split) <;> rfl
@[simp] theorem dispatchOp_polls (free : Bool) (start : Start) (s : State) : (dispatchOp free start s).polls = s.polls := by
  unfold dispatchOp; split <;> (try split) <;> rfl
@[simp] theorem dispatchOp_q (free : Bool) (start : Start) (s : State) : (dispatchOp free start s).q = s.q := by
  unfold dispatchOp; split <;> (try split) <;> rfl
@[simp] theorem dispatchOp_rem (free : Bool) (start : Start) (s : State) : (dispatchOp free start s).rem = s.rem := by
  unfold dispatchOp; split <;> (try split) <;> rfl
@[simp] theorem dispatchOp_elapsed (free : Bool) (start : Start) (s : State) : (dispatchOp free start s).elapsed = s.elapsed := by
  unfold dispatchOp; split <;> (try split) <;> rfl
@[simp] theorem dispatchOp_idleCnt (free : Bool) (start : Start) (s : State) : (dispatchOp free start s).idleCnt = s.idleCnt := by
  unfold dispatchOp; split <;> (try split) <;> rfl
@[simp] theorem dispatchOp_csN (free : Bool) (start : Start) (s : State) : (dispatchOp free start s).csN = s.csN := by
  unfold dispatchOp; split <;> (try split) <;> rfl
@[simp] theorem dispatchOp_dc (free : Bool) (start : Start) (s : State) : (dispatchOp free start s).dc = s.dc := by
  unfold dispatchOp; split <;> (try split) <;> rfl
@[simp] theorem dispatchOp_sclk (free : Bool) (start : Start) (s : State) : (dispatchOp free start s).sclk = s.sclk := by
  unfold dispatchOp; split <;> (try split) <;> rfl
@[simp] theorem dispatchOp_mosi (free : Bool) (start : Start) (s : State) : (dispatchOp free start s).mosi = s.mosi := by
  unfold dispatchOp; split <;> (try split) <;> rfl
@[simp] theorem dispatchOp_tCsRise (free : Bool) (start : Start) (s : State) : (dispatchOp free start s).tCsRise = s.tCsRise := by
  unfold dispatchOp; split <;> (try split) <;> rfl
@[simp] theorem dispatchOp_tSclkFall (free : Bool) (start : Start) (s : State) : (dispatchOp free start s).tSclkFall = s.tSclkFall := by
  unfold dispatchOp; split <;> (try split) <;> rfl
@[simp] theorem dispatchOp_rstN (free : Bool) (start : Start) (s : State) : (dispatchOp free start s).rstN = s.rstN := by
  unfold dispatchOp; split <;> (try split) <;> rfl
@[simp] theorem dispatchOp_bsync1 (free : Bool) (start : Start) (s : State) : (dispatchOp free start s).bsync1 = s.bsync1 := by
  unfold dispatchOp; split <;> (try split) <;> rfl
@[simp] theorem dispatchOp_bsync2 (free : Bool) (start : Start) (s : State) : (dispatchOp free start s).bsync2 = s.bsync2 := by
  unfold dispatchOp; split <;> (try split) <;> rfl
@[simp] theorem dispatchOp_cycle (free : Bool) (start : Start) (s : State) : (dispatchOp free start s).cycle = s.cycle := by
  unfold dispatchOp; split <;> (try split) <;> rfl
@[simp] theorem dispatchOp_cfg (free : Bool) (start : Start) (s : State) : (dispatchOp free start s).cfg = s.cfg := by
  unfold dispatchOp; split <;> (try split) <;> rfl
@[simp] theorem dispatchOp_inputs (free : Bool) (start : Start) (s : State) : (dispatchOp free start s).inputs = s.inputs := by
  unfold dispatchOp; split <;> (try split) <;> rfl
@[simp] theorem dispatchOp_draws (free : Bool) (start : Start) (s : State) : (dispatchOp free start s).draws = s.draws := by
  unfold dispatchOp; split <;> (try split) <;> rfl

@[simp] theorem hostWrite_errinfo (a : Option Access) (s : State) : (hostWrite a s).errinfo = s.errinfo := by
  unfold hostWrite; (repeat' split) <;> rfl
@[simp] theorem hostWrite_polls (a : Option Access) (s : State) : (hostWrite a s).polls = s.polls := by
  unfold hostWrite; (repeat' split) <;> rfl
@[simp] theorem hostWrite_q (a : Option Access) (s : State) : (hostWrite a s).q = s.q := by
  unfold hostWrite; (repeat' split) <;> rfl
@[simp] theorem hostWrite_eng (a : Option Access) (s : State) : (hostWrite a s).eng = s.eng := by
  unfold hostWrite; (repeat' split) <;> rfl
@[simp] theorem hostWrite_cur (a : Option Access) (s : State) : (hostWrite a s).cur = s.cur := by
  unfold hostWrite; (repeat' split) <;> rfl
@[simp] theorem hostWrite_k (a : Option Access) (s : State) : (hostWrite a s).k = s.k := by
  unfold hostWrite; (repeat' split) <;> rfl
@[simp] theorem hostWrite_rem (a : Option Access) (s : State) : (hostWrite a s).rem = s.rem := by
  unfold hostWrite; (repeat' split) <;> rfl
@[simp] theorem hostWrite_elapsed (a : Option Access) (s : State) : (hostWrite a s).elapsed = s.elapsed := by
  unfold hostWrite; (repeat' split) <;> rfl
@[simp] theorem hostWrite_idleCnt (a : Option Access) (s : State) : (hostWrite a s).idleCnt = s.idleCnt := by
  unfold hostWrite; (repeat' split) <;> rfl
@[simp] theorem hostWrite_csN (a : Option Access) (s : State) : (hostWrite a s).csN = s.csN := by
  unfold hostWrite; (repeat' split) <;> rfl
@[simp] theorem hostWrite_dc (a : Option Access) (s : State) : (hostWrite a s).dc = s.dc := by
  unfold hostWrite; (repeat' split) <;> rfl
@[simp] theorem hostWrite_sclk (a : Option Access) (s : State) : (hostWrite a s).sclk = s.sclk := by
  unfold hostWrite; (repeat' split) <;> rfl
@[simp] theorem hostWrite_mosi (a : Option Access) (s : State) : (hostWrite a s).mosi = s.mosi := by
  unfold hostWrite; (repeat' split) <;> rfl
@[simp] theorem hostWrite_tCsRise (a : Option Access) (s : State) : (hostWrite a s).tCsRise = s.tCsRise := by
  unfold hostWrite; (repeat' split) <;> rfl
@[simp] theorem hostWrite_tSclkFall (a : Option Access) (s : State) : (hostWrite a s).tSclkFall = s.tSclkFall := by
  unfold hostWrite; (repeat' split) <;> rfl
@[simp] theorem hostWrite_rstN (a : Option Access) (s : State) : (hostWrite a s).rstN = s.rstN := by
  unfold hostWrite; (repeat' split) <;> rfl
@[simp] theorem hostWrite_bsync1 (a : Option Access) (s : State) : (hostWrite a s).bsync1 = s.bsync1 := by
  unfold hostWrite; (repeat' split) <;> rfl
@[simp] theorem hostWrite_bsync2 (a : Option Access) (s : State) : (hostWrite a s).bsync2 = s.bsync2 := by
  unfold hostWrite; (repeat' split) <;> rfl
@[simp] theorem hostWrite_cycle (a : Option Access) (s : State) : (hostWrite a s).cycle = s.cycle := by
  unfold hostWrite; (repeat' split) <;> rfl
@[simp] theorem hostWrite_cfg (a : Option Access) (s : State) : (hostWrite a s).cfg = s.cfg := by
  unfold hostWrite; (repeat' split) <;> rfl
@[simp] theorem hostWrite_inputs (a : Option Access) (s : State) : (hostWrite a s).inputs = s.inputs := by
  unfold hostWrite; (repeat' split) <;> rfl
@[simp] theorem hostWrite_draws (a : Option Access) (s : State) : (hostWrite a s).draws = s.draws := by
  unfold hostWrite; (repeat' split) <;> rfl

/-- ERR after the host's write: cleared by STATUS bit 5 (20_memory.md R75). -/
theorem hostWrite_err (a : Option Access) (s : State) : (hostWrite a s).err = (s.err && !clears 5 a) := by
  unfold hostWrite; (repeat' split) <;> simp_all

theorem hostWrite_errcode (a : Option Access) (s : State) :
    (hostWrite a s).errcode = if clears 5 a then 0#3 else s.errcode := by
  unfold hostWrite; (repeat' split) <;> simp_all

theorem hostWrite_done (a : Option Access) (s : State) : (hostWrite a s).done = (s.done && !clears 4 a) := by
  unfold hostWrite; (repeat' split) <;> simp_all

/-! ### The segment -/

/-- A segment never stops the machine. -/
theorem runSegment_eq (s : State) : runSegment s = .next (segmentOf s) := by
  unfold runSegment segmentOf
  cases s.eng with
  | idle => rfl
  | close => cases s.due <;> rfl
  | exec =>
    cases s.due with
    | false => rfl
    | true => cases decode s.cur <;> simp [exec_eq]

/-- The segment leaves the shell as it was. -/
theorem segmentOf_shell (s : State) : Untouched s (segmentOf s) := by
  unfold segmentOf
  split
  · exact Untouched.refl s
  · split
    · exact runProgram_shell _ s
    · exact Untouched.refl s
  · split
    · split
      · exact runProgram_shell _ s
      · constructor <;> rfl
    · exact Untouched.refl s

/-! ### The edge and the step -/

theorem clockEdge_reset {inp : Input} (h : inp.rst = true) (s : State) : clockEdge inp s = .next s.blockReset := by
  simp [clockEdge, h]

theorem clockEdge_run {inp : Input} (h : inp.rst = false) (s : State) :
    clockEdge inp s = .next (finishEdge inp s (afterSegment inp.access s)) := by
  simp [clockEdge, h, runSegment_eq, afterSegment]

/-- Everything a step can do: a fault for parameters out of range, block reset, or an edge. It never refuses. -/
theorem step_cases (s : State) :
    (¬ s.cfg.Valid ∧ step s = .fault .parameterOutOfRange) ∨
    (s.cfg.Valid ∧ s.input.rst = true ∧ step s = .next s.blockReset) ∨
    (s.cfg.Valid ∧ s.input.rst = false ∧
      step s = .next (finishEdge s.input s (afterSegment s.input.access s))) := by
  by_cases hv : s.cfg.Valid
  · cases hr : s.input.rst with
    | true => exact .inr (.inl ⟨hv, rfl, by rw [step, if_pos hv, clockEdge_reset hr]⟩)
    | false => exact .inr (.inr ⟨hv, rfl, by rw [step, if_pos hv, clockEdge_run hr]⟩)
  · exact .inl ⟨hv, by rw [step, if_neg hv]⟩

/-! ### The finished edge -/

@[simp] theorem finishEdge_en (inp : Input) (before after : State) :
    (finishEdge inp before after).en = after.en := by simp [finishEdge]
@[simp] theorem finishEdge_ieDone (inp : Input) (before after : State) :
    (finishEdge inp before after).ieDone = after.ieDone := by simp [finishEdge]
@[simp] theorem finishEdge_ieErr (inp : Input) (before after : State) :
    (finishEdge inp before after).ieErr = after.ieErr := by simp [finishEdge]
@[simp] theorem finishEdge_polls (inp : Input) (before after : State) :
    (finishEdge inp before after).polls = after.polls := by simp [finishEdge]
@[simp] theorem finishEdge_rem (inp : Input) (before after : State) :
    (finishEdge inp before after).rem = after.rem := by simp [finishEdge]
@[simp] theorem finishEdge_elapsed (inp : Input) (before after : State) :
    (finishEdge inp before after).elapsed = after.elapsed := by simp [finishEdge]
@[simp] theorem finishEdge_idleCnt (inp : Input) (before after : State) :
    (finishEdge inp before after).idleCnt = after.idleCnt := by simp [finishEdge]
@[simp] theorem finishEdge_csN (inp : Input) (before after : State) :
    (finishEdge inp before after).csN = after.csN := by simp [finishEdge]
@[simp] theorem finishEdge_dc (inp : Input) (before after : State) :
    (finishEdge inp before after).dc = after.dc := by simp [finishEdge]
@[simp] theorem finishEdge_sclk (inp : Input) (before after : State) :
    (finishEdge inp before after).sclk = after.sclk := by simp [finishEdge]
@[simp] theorem finishEdge_mosi (inp : Input) (before after : State) :
    (finishEdge inp before after).mosi = after.mosi := by simp [finishEdge]
@[simp] theorem finishEdge_tCsRise (inp : Input) (before after : State) :
    (finishEdge inp before after).tCsRise = after.tCsRise := by simp [finishEdge]
@[simp] theorem finishEdge_tSclkFall (inp : Input) (before after : State) :
    (finishEdge inp before after).tSclkFall = after.tSclkFall := by simp [finishEdge]
@[simp] theorem finishEdge_rstN (inp : Input) (before after : State) :
    (finishEdge inp before after).rstN = after.rstN := by simp [finishEdge]
@[simp] theorem finishEdge_cfg (inp : Input) (before after : State) :
    (finishEdge inp before after).cfg = after.cfg := by simp [finishEdge]
@[simp] theorem finishEdge_bsync1 (inp : Input) (before after : State) :
    (finishEdge inp before after).bsync1 = inp.busy := by simp [finishEdge]
@[simp] theorem finishEdge_bsync2 (inp : Input) (before after : State) :
    (finishEdge inp before after).bsync2 = after.bsync1 := by simp [finishEdge]
@[simp] theorem finishEdge_cycle (inp : Input) (before after : State) :
    (finishEdge inp before after).cycle = after.cycle + 1 := by simp [finishEdge]
@[simp] theorem finishEdge_inputs (inp : Input) (before after : State) :
    (finishEdge inp before after).inputs = after.inputs.tail := by simp [finishEdge]
@[simp] theorem finishEdge_draws (inp : Input) (before after : State) :
    (finishEdge inp before after).draws = after.draws + 1 := by simp [finishEdge]

/-- Whether the dispatch rule takes a word from the queue. -/
def Start.isOp : Start → Bool
  | .op _ => true
  | .nothing => false
  | .close => false

theorem finishEdge_q (inp : Input) (before after : State) :
    (finishEdge inp before after).q =
      nextQueue before.q (flushAt before after inp.access)
        (engineFree before after && (dispatchChoice before after (flushAt before after inp.access)).isOp)
        (offer before inp.access) := by
  simp only [finishEdge, State.tick_q, setDone_q]
  cases dispatchChoice before after (flushAt before after inp.access) <;> rfl

theorem finishEdge_eng (inp : Input) (before after : State) :
    (finishEdge inp before after).eng =
      (dispatchOp (engineFree before after) (dispatchChoice before after (flushAt before after inp.access)) after).eng := by
  simp only [finishEdge, State.tick_eng, setDone_eng]
  unfold dispatchOp
  split
  · split <;> rfl
  · simp

theorem finishEdge_cur (inp : Input) (before after : State) :
    (finishEdge inp before after).cur =
      (dispatchOp (engineFree before after) (dispatchChoice before after (flushAt before after inp.access)) after).cur := by
  simp only [finishEdge, State.tick_cur, setDone_cur]
  unfold dispatchOp
  split
  · split <;> simp
  · simp

theorem finishEdge_k (inp : Input) (before after : State) :
    (finishEdge inp before after).k =
      (dispatchOp (engineFree before after) (dispatchChoice before after (flushAt before after inp.access)) after).k := by
  simp only [finishEdge, State.tick_k, setDone_k]
  unfold dispatchOp
  split
  · split <;> simp
  · simp

theorem finishEdge_err (inp : Input) (before after : State) :
    (finishEdge inp before after).err = (raiseOverflow before inp.access after).err := by simp [finishEdge]
theorem finishEdge_errcode (inp : Input) (before after : State) :
    (finishEdge inp before after).errcode = (raiseOverflow before inp.access after).errcode := by simp [finishEdge]
theorem finishEdge_errinfo (inp : Input) (before after : State) :
    (finishEdge inp before after).errinfo = (raiseOverflow before inp.access after).errinfo := by simp [finishEdge]

/-- DONE after an edge (60_exceptions.md R266). -/
theorem finishEdge_done (inp : Input) (before after : State) :
    (finishEdge inp before after).done =
      (((finishEdge inp before after).isIdle && !before.isIdle && !(finishEdge inp before after).err) || after.done) := by
  simp only [finishEdge, State.tick_done, setDone_done]
  simp [State.isIdle]

end Sys2Proof.Machine
end

