-- ==== Sys2Proof/Laws/Port.lean ====
section
/-! SUPPORT. What each host access does at its edge. -/

namespace Sys2Proof.Machine

/-- An access that writes neither CTRL nor STATUS nor OP leaves the edge as it is without an access. -/
theorem clockEdge_inert {a : Option Access} (h : ∀ r, r = .ctrl ∨ r = .status ∨ r = .op → writtenTo r a = none)
    (b : Bool) (s : State) : clockEdge ⟨false, a, b⟩ s = clockEdge ⟨false, none, b⟩ s := by
  have hc := h .ctrl (.inl rfl)
  have hs := h .status (.inr (.inl rfl))
  have ho := h .op (.inr (.inr rfl))
  have h0 : ∀ r, writtenTo r none = none := fun _ => rfl
  have hw : hostWrite a s = hostWrite none s := by simp only [hostWrite, clears, hc, hs, h0]
  rw [clockEdge_run rfl, clockEdge_run rfl]
  simp only [afterSegment, hw, finishEdge, flushAt, hostFlush, offer, raiseOverflow, hc, ho, h0, State.tick]

/-- No access: the host writes nothing. -/
@[simp] theorem hostWrite_none (s : State) : hostWrite none s = s := rfl

@[simp] theorem hostWrite_read (off : Offset) (s : State) : hostWrite (some (.read off)) s = s := rfl

/-- A write to OP changes no control bit and no flag; its word is offered to the queue. -/
@[simp] theorem hostWrite_op (w : Word) (s : State) : hostWrite (some (.write 8#5 w)) s = s := rfl

/-- A CTRL write sets EN and the enables (20_memory.md R76). -/
@[simp] theorem hostWrite_ctrl (v : Word) (s : State) : hostWrite (some (.write 0#5 v)) s = s.writeCtrl v := rfl

/-- A STATUS write clears DONE and ERR by its bits 4 and 5 (20_memory.md R75). -/
theorem hostWrite_status (v : Word) (s : State) :
    hostWrite (some (.write 4#5 v)) s =
      if v.getLsbD 5 then (if v.getLsbD 4 then { s with done := false } else s).clearError
      else if v.getLsbD 4 then { s with done := false } else s := rfl

/-- The word offered to OP (20_memory.md R77). -/
theorem offer_op (w : Word) (s : State) :
    offer s (some (.write 8#5 w)) =
      if s.err then .drop else if s.q.length = s.cfg.qdepth then .overflow w else .push w := rfl

@[simp] theorem offer_none (s : State) : offer s none = .nothing := rfl
@[simp] theorem offer_read (s : State) (off : Offset) : offer s (some (.read off)) = .nothing := rfl
@[simp] theorem offer_ctrl (s : State) (v : Word) : offer s (some (.write 0#5 v)) = .nothing := rfl
@[simp] theorem offer_status (s : State) (v : Word) : offer s (some (.write 4#5 v)) = .nothing := rfl

@[simp] theorem hostFlush_none : hostFlush none = false := rfl
@[simp] theorem hostFlush_read (off : Offset) : hostFlush (some (.read off)) = false := rfl
@[simp] theorem hostFlush_op (w : Word) : hostFlush (some (.write 8#5 w)) = false := rfl
@[simp] theorem hostFlush_ctrl (v : Word) : hostFlush (some (.write 0#5 v)) = v.getLsbD 1 := rfl
@[simp] theorem hostFlush_status (v : Word) : hostFlush (some (.write 4#5 v)) = false := rfl

end Sys2Proof.Machine
end

