-- ==== Sys2Proof/Laws/Host.lean ====
section
/-! SUPPORT. What the host writes does not reach the running op: a segment carries the control bits, DONE and the error
registers through unchanged, unless it raises an error itself. -/

namespace Sys2Proof.Machine

/-- The state with other control bits and another DONE. -/
def State.withControl (s : State) (en ieDone ieErr done : Bool) : State :=
  { s with en := en, ieDone := ieDone, ieErr := ieErr, done := done }

/-- The state with other error registers. -/
def State.withError (s : State) (err : Bool) (errcode : BitVec 3) (errinfo : Word) : State :=
  { s with err := err, errcode := errcode, errinfo := errinfo }

@[simp] theorem withControl_polls (s : State) (a b c d : Bool) : (s.withControl a b c d).polls = s.polls := rfl
@[simp] theorem withControl_q (s : State) (a b c d : Bool) : (s.withControl a b c d).q = s.q := rfl
@[simp] theorem withControl_eng (s : State) (a b c d : Bool) : (s.withControl a b c d).eng = s.eng := rfl
@[simp] theorem withControl_cur (s : State) (a b c d : Bool) : (s.withControl a b c d).cur = s.cur := rfl
@[simp] theorem withControl_k (s : State) (a b c d : Bool) : (s.withControl a b c d).k = s.k := rfl
@[simp] theorem withControl_rem (s : State) (a b c d : Bool) : (s.withControl a b c d).rem = s.rem := rfl
@[simp] theorem withControl_elapsed (s : State) (a b c d : Bool) : (s.withControl a b c d).elapsed = s.elapsed := rfl
@[simp] theorem withControl_idleCnt (s : State) (a b c d : Bool) : (s.withControl a b c d).idleCnt = s.idleCnt := rfl
@[simp] theorem withControl_csN (s : State) (a b c d : Bool) : (s.withControl a b c d).csN = s.csN := rfl
@[simp] theorem withControl_dc (s : State) (a b c d : Bool) : (s.withControl a b c d).dc = s.dc := rfl
@[simp] theorem withControl_sclk (s : State) (a b c d : Bool) : (s.withControl a b c d).sclk = s.sclk := rfl
@[simp] theorem withControl_mosi (s : State) (a b c d : Bool) : (s.withControl a b c d).mosi = s.mosi := rfl
@[simp] theorem withControl_tCsRise (s : State) (a b c d : Bool) : (s.withControl a b c d).tCsRise = s.tCsRise := rfl
@[simp] theorem withControl_tSclkFall (s : State) (a b c d : Bool) : (s.withControl a b c d).tSclkFall = s.tSclkFall := rfl
@[simp] theorem withControl_rstN (s : State) (a b c d : Bool) : (s.withControl a b c d).rstN = s.rstN := rfl
@[simp] theorem withControl_bsync1 (s : State) (a b c d : Bool) : (s.withControl a b c d).bsync1 = s.bsync1 := rfl
@[simp] theorem withControl_bsync2 (s : State) (a b c d : Bool) : (s.withControl a b c d).bsync2 = s.bsync2 := rfl
@[simp] theorem withControl_cycle (s : State) (a b c d : Bool) : (s.withControl a b c d).cycle = s.cycle := rfl
@[simp] theorem withControl_cfg (s : State) (a b c d : Bool) : (s.withControl a b c d).cfg = s.cfg := rfl
@[simp] theorem withControl_inputs (s : State) (a b c d : Bool) : (s.withControl a b c d).inputs = s.inputs := rfl
@[simp] theorem withControl_draws (s : State) (a b c d : Bool) : (s.withControl a b c d).draws = s.draws := rfl
@[simp] theorem withControl_errcode (s : State) (a b c d : Bool) : (s.withControl a b c d).errcode = s.errcode := rfl
@[simp] theorem withControl_errinfo (s : State) (a b c d : Bool) : (s.withControl a b c d).errinfo = s.errinfo := rfl
@[simp] theorem withControl_err (s : State) (a b c d : Bool) : (s.withControl a b c d).err = s.err := rfl
@[simp] theorem withError_polls (s : State) (e : Bool) (c : BitVec 3) (i : Word) :
    (s.withError e c i).polls = s.polls := rfl
@[simp] theorem withError_q (s : State) (e : Bool) (c : BitVec 3) (i : Word) :
    (s.withError e c i).q = s.q := rfl
@[simp] theorem withError_eng (s : State) (e : Bool) (c : BitVec 3) (i : Word) :
    (s.withError e c i).eng = s.eng := rfl
@[simp] theorem withError_cur (s : State) (e : Bool) (c : BitVec 3) (i : Word) :
    (s.withError e c i).cur = s.cur := rfl
@[simp] theorem withError_k (s : State) (e : Bool) (c : BitVec 3) (i : Word) :
    (s.withError e c i).k = s.k := rfl
@[simp] theorem withError_rem (s : State) (e : Bool) (c : BitVec 3) (i : Word) :
    (s.withError e c i).rem = s.rem := rfl
@[simp] theorem withError_elapsed (s : State) (e : Bool) (c : BitVec 3) (i : Word) :
    (s.withError e c i).elapsed = s.elapsed := rfl
@[simp] theorem withError_idleCnt (s : State) (e : Bool) (c : BitVec 3) (i : Word) :
    (s.withError e c i).idleCnt = s.idleCnt := rfl
@[simp] theorem withError_csN (s : State) (e : Bool) (c : BitVec 3) (i : Word) :
    (s.withError e c i).csN = s.csN := rfl
@[simp] theorem withError_dc (s : State) (e : Bool) (c : BitVec 3) (i : Word) :
    (s.withError e c i).dc = s.dc := rfl
@[simp] theorem withError_sclk (s : State) (e : Bool) (c : BitVec 3) (i : Word) :
    (s.withError e c i).sclk = s.sclk := rfl
@[simp] theorem withError_mosi (s : State) (e : Bool) (c : BitVec 3) (i : Word) :
    (s.withError e c i).mosi = s.mosi := rfl
@[simp] theorem withError_tCsRise (s : State) (e : Bool) (c : BitVec 3) (i : Word) :
    (s.withError e c i).tCsRise = s.tCsRise := rfl
@[simp] theorem withError_tSclkFall (s : State) (e : Bool) (c : BitVec 3) (i : Word) :
    (s.withError e c i).tSclkFall = s.tSclkFall := rfl
@[simp] theorem withError_rstN (s : State) (e : Bool) (c : BitVec 3) (i : Word) :
    (s.withError e c i).rstN = s.rstN := rfl
@[simp] theorem withError_bsync1 (s : State) (e : Bool) (c : BitVec 3) (i : Word) :
    (s.withError e c i).bsync1 = s.bsync1 := rfl
@[simp] theorem withError_bsync2 (s : State) (e : Bool) (c : BitVec 3) (i : Word) :
    (s.withError e c i).bsync2 = s.bsync2 := rfl
@[simp] theorem withError_cycle (s : State) (e : Bool) (c : BitVec 3) (i : Word) :
    (s.withError e c i).cycle = s.cycle := rfl
@[simp] theorem withError_cfg (s : State) (e : Bool) (c : BitVec 3) (i : Word) :
    (s.withError e c i).cfg = s.cfg := rfl
@[simp] theorem withError_inputs (s : State) (e : Bool) (c : BitVec 3) (i : Word) :
    (s.withError e c i).inputs = s.inputs := rfl
@[simp] theorem withError_draws (s : State) (e : Bool) (c : BitVec 3) (i : Word) :
    (s.withError e c i).draws = s.draws := rfl
@[simp] theorem withError_en (s : State) (e : Bool) (c : BitVec 3) (i : Word) :
    (s.withError e c i).en = s.en := rfl
@[simp] theorem withError_ieDone (s : State) (e : Bool) (c : BitVec 3) (i : Word) :
    (s.withError e c i).ieDone = s.ieDone := rfl
@[simp] theorem withError_ieErr (s : State) (e : Bool) (c : BitVec 3) (i : Word) :
    (s.withError e c i).ieErr = s.ieErr := rfl
@[simp] theorem withError_done (s : State) (e : Bool) (c : BitVec 3) (i : Word) :
    (s.withError e c i).done = s.done := rfl

/-- A change of the state a statement leaves. -/
def Flow.map (f : State → State) : Flow → Flow
  | .go s => .go (f s)
  | .skip n s => .skip n (f s)
  | .stop s => .stop (f s)

/-- What a host access leaves of the control and error fields. -/
theorem hostWrite_eq (a : Option Access) (s : State) :
    hostWrite a s =
      (s.withControl (hostWrite a s).en (hostWrite a s).ieDone (hostWrite a s).ieErr (hostWrite a s).done).withError
        (hostWrite a s).err (hostWrite a s).errcode s.errinfo := by
  unfold hostWrite; (repeat' split) <;> rfl

theorem doStmt_withControl (pc : Nat) (st : Stmt) (s : State) (a b c d : Bool) :
    doStmt pc (s.withControl a b c d) st = (doStmt pc s st).map (·.withControl a b c d) := by
  cases st with
  | skipIfHigh n | skipIfLow n => cases h : s.csN <;> simp [doStmt, State.withControl, h, Flow.map]
  | wait n => by_cases h : n = 0 <;> simp [doStmt, h, Flow.map, State.withControl, State.suspend]
  | waitRise n =>
    by_cases h : afterEdge s.tCsRise n ≤ s.cycle + 1 <;>
      simp [doStmt, waitUntil, State.withControl, h, Flow.map, State.suspend]
  | waitFall n =>
    by_cases h : afterEdge s.tSclkFall n ≤ s.cycle + 1 <;>
      simp [doStmt, waitUntil, State.withControl, h, Flow.map, State.suspend]
  | fillAgain v half back =>
    by_cases h : s.rem - 1 = 0 <;> simp [doStmt, h, Flow.map, State.withControl, State.suspend]
  | sample =>
    have e : (s.withControl a b c d).sampled = s.sampled.withControl a b c d := rfl
    simp only [doStmt, pollOnce, e, Flow.map, withControl_cfg, withControl_idleCnt]
    split <;> rfl
  | pollWake =>
    have e : (s.withControl a b c d).slept = s.slept.withControl a b c d := rfl
    have e' : (s.slept.withControl a b c d).sampled = s.slept.sampled.withControl a b c d := rfl
    simp only [doStmt, pollAgain, pollOnce, e, e', Flow.map, withControl_cfg, withControl_idleCnt, withControl_elapsed]
    split
    · rfl
    · split <;> rfl
  | _ => rfl

theorem runFrom_withControl (a b c d : Bool) (p : List Stmt) : ∀ (pc sk : Nat) (s : State),
    runFrom pc sk p (s.withControl a b c d) = (runFrom pc sk p s).withControl a b c d := by
  induction p with
  | nil => intro pc sk s; cases sk <;> rfl
  | cons st p ih =>
    intro pc sk s
    cases sk with
    | succ n => exact ih _ _ _
    | zero =>
      rw [runFrom_cons, runFrom_cons, doStmt_withControl]
      cases doStmt pc s st with
      | go s' => exact ih _ _ _
      | skip n s' => exact ih _ _ _
      | stop s' => rfl

theorem runProgram_withControl (a b c d : Bool) (p : List Stmt) (s : State) :
    runProgram p (s.withControl a b c d) = (runProgram p s).withControl a b c d := by
  unfold runProgram
  rw [withControl_k]
  cases s.k <;> exact runFrom_withControl a b c d _ _ _ s

/-- A segment carries the control bits and DONE through. -/
theorem segmentOf_withControl (a b c d : Bool) (s : State) :
    segmentOf (s.withControl a b c d) = (segmentOf s).withControl a b c d := by
  have hd : (s.withControl a b c d).due = s.due := rfl
  unfold segmentOf
  rw [withControl_eng, hd, withControl_cur, withControl_cfg]
  cases s.eng with
  | idle => rfl
  | close =>
    cases s.due with
    | false => rfl
    | true => exact runProgram_withControl a b c d _ s
  | exec =>
    cases s.due with
    | false => rfl
    | true =>
      cases decode s.cur with
      | none => rfl
      | some i => exact runProgram_withControl a b c d _ s

/-- Two states that are the same but for the error registers, and these untouched if the engine did not raise. -/
def CarriesError (e : Bool) (c : BitVec 3) (i : Word) (t t' : State) : Prop :=
  (∃ e' c' i', t' = t.withError e' c' i') ∧ (t.eng ≠ .idle → t' = t.withError e c i)

theorem carries_same (e : Bool) (c : BitVec 3) (i : Word) (t : State) :
    CarriesError e c i t (t.withError e c i) := ⟨⟨e, c, i, rfl⟩, fun _ => rfl⟩

/-- A statement carries the error registers through, or raises. -/
theorem doStmt_withError (pc : Nat) (st : Stmt) (s : State) (e : Bool) (c : BitVec 3) (i : Word) :
    (doStmt pc (s.withError e c i) st = (doStmt pc s st).map (·.withError e c i)) ∨
    ∃ t t', doStmt pc s st = .stop t ∧ doStmt pc (s.withError e c i) st = .stop t' ∧ CarriesError e c i t t' := by
  cases st with
  | skipIfHigh n | skipIfLow n => left; cases h : s.csN <;> simp [doStmt, State.withError, h, Flow.map]
  | wait n => left; by_cases h : n = 0 <;> simp [doStmt, h, Flow.map, State.withError, State.suspend]
  | waitRise n =>
    left
    by_cases h : afterEdge s.tCsRise n ≤ s.cycle + 1 <;>
      simp [doStmt, waitUntil, State.withError, h, Flow.map, State.suspend]
  | waitFall n =>
    left
    by_cases h : afterEdge s.tSclkFall n ≤ s.cycle + 1 <;>
      simp [doStmt, waitUntil, State.withError, h, Flow.map, State.suspend]
  | fillAgain v half back =>
    left
    by_cases h : s.rem - 1 = 0 <;> simp [doStmt, h, Flow.map, State.withError, State.suspend]
  | sample =>
    left
    have e : (s.withError e c i).sampled = s.sampled.withError e c i := rfl
    simp only [doStmt, pollOnce, e, Flow.map, withError_cfg, withError_idleCnt]
    split <;> rfl
  | pollWake =>
    right
    have e1 : (s.withError e c i).slept = s.slept.withError e c i := rfl
    have e2 : (s.slept.withError e c i).sampled = s.slept.sampled.withError e c i := rfl
    refine ⟨_, _, rfl, rfl, ?_⟩
    simp only [pollAgain, pollOnce, e1, e2, withError_cfg, withError_idleCnt, withError_elapsed]
    split
    · exact ⟨⟨_, _, _, rfl⟩, fun h => absurd rfl h⟩
    · split <;> exact carries_same e c i _
  | _ => exact .inl rfl

theorem runFrom_withError (e : Bool) (c : BitVec 3) (i : Word) (p : List Stmt) : ∀ (pc sk : Nat) (s : State),
    CarriesError e c i (runFrom pc sk p s) (runFrom pc sk p (s.withError e c i)) := by
  induction p with
  | nil => intro pc sk s; cases sk <;> exact carries_same e c i _
  | cons st p ih =>
    intro pc sk s
    cases sk with
    | succ n => exact ih _ _ _
    | zero =>
      rw [runFrom_cons, runFrom_cons]
      rcases doStmt_withError pc st s e c i with h | ⟨t, t', h, h', hc⟩
      · rw [h]
        cases doStmt pc s st with
        | go s' => exact ih _ _ _
        | skip n s' => exact ih _ _ _
        | stop s' => exact carries_same e c i _
      · rw [h, h']; exact hc

theorem runProgram_withError (e : Bool) (c : BitVec 3) (i : Word) (p : List Stmt) (s : State) :
    CarriesError e c i (runProgram p s) (runProgram p (s.withError e c i)) := by
  have hk : (s.withError e c i).k = s.k := rfl
  unfold runProgram
  rw [hk]
  cases s.k <;> exact runFrom_withError e c i _ _ _ s

/-- A segment carries the error registers through unless it raises, and then only they depend on them. -/
theorem segmentOf_withError (e : Bool) (c : BitVec 3) (i : Word) (s : State) (hs : s.eng ≠ .idle) :
    CarriesError e c i (segmentOf s) (segmentOf (s.withError e c i)) := by
  have hd : (s.withError e c i).due = s.due := rfl
  have he : (s.withError e c i).eng = s.eng := rfl
  have hc : (s.withError e c i).cur = s.cur := rfl
  have hg : (s.withError e c i).cfg = s.cfg := rfl
  unfold segmentOf
  rw [he, hd, hc, hg]
  cases h : s.eng with
  | idle => exact absurd h hs
  | close =>
    cases s.due with
    | false => exact carries_same e c i s
    | true => exact runProgram_withError e c i _ s
  | exec =>
    cases s.due with
    | false => exact carries_same e c i s
    | true =>
      cases decode s.cur with
      | none => exact ⟨⟨_, _, _, rfl⟩, fun h => absurd rfl h⟩
      | some i' => exact runProgram_withError e c i _ s

theorem ErrorsKept.refl (s : State) : ErrorsKept s s := by constructor <;> rfl

theorem ErrorsKept.trans {s t u : State} (h : ErrorsKept s t) (h' : ErrorsKept t u) : ErrorsKept s u :=
  ⟨h'.err.trans h.err, h'.errcode.trans h.errcode, h'.errinfo.trans h.errinfo, h'.q.trans h.q, h'.eng.trans h.eng⟩

/-- What an error raised by the engine leaves, of a state with the error registers of `s`. -/
structure Raised (s t : State) : Prop where
  err : t.err = true
  q : t.q = []
  eng : t.eng = .idle
  k : t.k = none
  first : s.err = false → ∃ e : ErrorKind, e ≠ .overflow ∧ t.errcode = e.code ∧ t.errinfo = t.cur
  later : s.err = true → t.errcode = s.errcode ∧ t.errinfo = s.errinfo

theorem Raised.of_kept {s u t : State} (h : ErrorsKept s u) (h' : Raised u t) : Raised s t :=
  ⟨h'.err, h'.q, h'.eng, h'.k, fun he => h'.first (h.err.trans he),
    fun he => by rw [← h.errcode, ← h.errinfo]; exact h'.later (h.err.trans he)⟩

theorem raise_raised (s : State) {e : ErrorKind} (he : e ≠ .overflow) : Raised s (s.raise e s.cur) where
  err := rfl
  q := rfl
  eng := rfl
  k := rfl
  first := fun h => ⟨e, he, by simp [State.raise, State.recordError, h]⟩
  later := fun h => by simp [State.raise, State.recordError, h]

/-- A statement keeps the error registers, the queue and the engine, or it ends the segment by raising. -/
theorem doStmt_errors (pc : Nat) (st : Stmt) (s : State) :
    ErrorsKept s (doStmt pc s st).state ∨ ∃ t, doStmt pc s st = .stop t ∧ Raised s t := by
  cases st with
  | waitRise n | waitFall n =>
    left
    rcases waitUntil_state _ pc s with h | h <;> (simp only [doStmt]; rw [h]; constructor <;> rfl)
  | sample => left; simp only [doStmt, pollOnce, Flow.state_stop]; split <;> constructor <;> rfl
  | pollWake =>
    simp only [doStmt, pollAgain]
    split
    · exact .inr ⟨_, rfl, Raised.of_kept (u := s.slept) (by constructor <;> rfl) (raise_raised s.slept (by simp))⟩
    · left; simp only [pollOnce, Flow.state_stop]; split <;> constructor <;> rfl
  | skipIfHigh n | skipIfLow n | wait n | fillAgain v half back =>
    left; simp only [doStmt]; split <;> constructor <;> rfl
  | _ => left; constructor <;> rfl

theorem runFrom_errors (p : List Stmt) : ∀ (pc sk : Nat) (s : State),
    ErrorsKept s (runFrom pc sk p s) ∨ Raised s (runFrom pc sk p s) := by
  induction p with
  | nil => intro pc sk s; left; rw [runFrom_nil]; constructor <;> rfl
  | cons st p ih =>
    intro pc sk s
    cases sk with
    | succ n => exact ih _ _ _
    | zero =>
      have lift : ∀ {u t : State}, ErrorsKept s u → (ErrorsKept u t ∨ Raised u t) → ErrorsKept s t ∨ Raised s t :=
        fun hu ht => ht.elim (fun h => .inl (hu.trans h)) (fun h => .inr (h.of_kept hu))
      rw [runFrom_cons]
      rcases doStmt_errors pc st s with h | ⟨t, h, hr⟩
      · revert h
        cases doStmt pc s st with
        | go s' => exact fun h => lift h (ih _ _ _)
        | skip n s' => exact fun h => lift h (ih _ _ _)
        | stop s' => exact fun h => .inl h
      · rw [h]; exact .inr hr

/-- A micro-program's segment keeps the error registers, the queue and the engine, or raises. -/
theorem runProgram_errors (p : List Stmt) (s : State) :
    ErrorsKept s (runProgram p s) ∨ Raised s (runProgram p s) := by
  unfold runProgram
  cases s.k <;> exact runFrom_errors _ _ _ s

/-- The segment of an edge keeps the error registers, the queue and the engine, or raises. -/
theorem segmentOf_errors (s : State) : ErrorsKept s (segmentOf s) ∨ Raised s (segmentOf s) := by
  unfold segmentOf
  split
  · exact .inl (.refl s)
  · split
    · exact runProgram_errors _ s
    · exact .inl (.refl s)
  · split
    · split
      · exact runProgram_errors _ s
      · exact .inr (raise_raised s (by simp))
    · exact .inl (.refl s)

end Sys2Proof.Machine
end

