-- ==== Sys2Proof/Laws/PerInstr.lean ====
section
/-! SUPPORT. The family EncodesLegal: the word of every well-formed op passes the legality check of
spec/30_encoding.md R111, one lemma for each op. -/

namespace Sys2Proof.Laws.EncodesLegal

open Sys2Proof

/-- The word of the op, if the op is well-formed, is legal and carries the op's opcode. -/
def Statement (i : Instr) : Prop := WellFormed i → legal (encode i) = true ∧ opcodeOf (encode i) = i.opcode

/-- The opcode of a word from its number. -/
theorem opcode_of_toNat {w : Word} {n : Nat} (h : w.toNat / 2 ^ 28 % 16 = n) : (opcodeOf w).toNat = n := by
  rw [opcodeOf, field_toNat]; exact h

theorem nop : Statement .nop := fun _ => by decide

theorem cmd (byte : Byte) : Statement (.cmd byte) := fun _ => by
  have e := encode_toNat (.cmd byte)
  have hb := byte.isLt
  simp only [encodedNat] at e
  have ho : (opcodeOf (encode (.cmd byte))).toNat = 1 := opcode_of_toNat (by omega)
  refine ⟨?_, BitVec.eq_of_toNat_eq ho⟩
  simp only [legal, ho, field_eq, field_toNat, e]
  simp
  omega

theorem data (last : Bool) (byte : Byte) : Statement (.data last byte) := fun _ => by
  have e := encode_toNat (.data last byte)
  have hb := byte.isLt
  have hl := last.toNat_le
  simp only [encodedNat] at e
  have ho : (opcodeOf (encode (.data last byte))).toNat = 2 := opcode_of_toNat (by omega)
  refine ⟨?_, BitVec.eq_of_toNat_eq ho⟩
  simp only [legal, ho, field_eq, field_toNat, e]
  simp
  omega

theorem pix (last : Bool) (left right : Colour) : Statement (.pix last left right) := fun _ => by
  have e := encode_toNat (.pix last left right)
  have hb := left.isLt
  have hr := right.isLt
  have hl := last.toNat_le
  simp only [encodedNat] at e
  have ho : (opcodeOf (encode (.pix last left right))).toNat = 3 := opcode_of_toNat (by omega)
  refine ⟨?_, BitVec.eq_of_toNat_eq ho⟩
  simp only [legal, ho, field_eq, field_toNat, e]
  simp
  omega

theorem fill (count : BitVec 16) (last : Bool) (color : Colour) : Statement (.fill count last color) := fun hw => by
  have e := encode_toNat (.fill count last color)
  have hn := count.isLt
  have hc := color.isLt
  have hl := last.toNat_le
  have h0 : count.toNat ≠ 0 := fun h => by
    have : count = 0 := BitVec.eq_of_toNat_eq h
    simp [WellFormed, Instr.wellFormed, this] at hw
  simp only [encodedNat] at e
  have ho : (opcodeOf (encode (.fill count last color))).toNat = 4 := opcode_of_toNat (by omega)
  refine ⟨?_, BitVec.eq_of_toNat_eq ho⟩
  simp only [legal, ho, field_eq, bne, field_toNat, e]
  simp
  omega

theorem reset : Statement .reset := fun _ => by decide

theorem waitidle : Statement .waitidle := fun _ => by decide

theorem delay (ms : BitVec 20) : Statement (.delay ms) := fun _ => by
  have e := encode_toNat (.delay ms)
  have hm := ms.isLt
  simp only [encodedNat] at e
  have ho : (opcodeOf (encode (.delay ms))).toNat = 7 := opcode_of_toNat (by omega)
  refine ⟨?_, BitVec.eq_of_toNat_eq ho⟩
  simp only [legal, ho, field_eq, field_toNat, e]
  simp
  omega

end Sys2Proof.Laws.EncodesLegal
end

