-- ==== Sys2Proof/Laws/Run.lean ====
section
/-! SUPPORT. Running an op over many edges: waits pass without effect, and each segment is reached at its wake edge. -/

namespace Sys2Proof.Machine

/-- `n` cycles pass in which no segment of the op is due. -/
def State.pass : Nat → State → State
  | 0, s => s
  | n + 1, s => State.pass n (s.tick s.input.busy)

@[simp] theorem State.pass_zero (s : State) : s.pass 0 = s := rfl
theorem State.pass_succ (n : Nat) (s : State) : s.pass (n + 1) = (s.tick s.input.busy).pass n := rfl

/-- What does not change while cycles pass: everything but the synchronizer, the cycle and the environment. -/
structure Passed (n : Nat) (s t : State) : Prop where
  en : t.en = s.en
  ieDone : t.ieDone = s.ieDone
  ieErr : t.ieErr = s.ieErr
  done : t.done = s.done
  err : t.err = s.err
  errcode : t.errcode = s.errcode
  errinfo : t.errinfo = s.errinfo
  polls : t.polls = s.polls
  q : t.q = s.q
  eng : t.eng = s.eng
  cur : t.cur = s.cur
  k : t.k = s.k
  rem : t.rem = s.rem
  elapsed : t.elapsed = s.elapsed
  idleCnt : t.idleCnt = s.idleCnt
  csN : t.csN = s.csN
  dc : t.dc = s.dc
  sclk : t.sclk = s.sclk
  mosi : t.mosi = s.mosi
  tCsRise : t.tCsRise = s.tCsRise
  tSclkFall : t.tSclkFall = s.tSclkFall
  rstN : t.rstN = s.rstN
  cfg : t.cfg = s.cfg
  cycle : t.cycle = s.cycle + n
  draws : t.draws = s.draws + n
  inputs : t.inputs = s.inputs.drop n

theorem State.pass_passed (n : Nat) : ∀ s : State, Passed n s (s.pass n) := by
  induction n with
  | zero => intro s; constructor <;> simp
  | succ n ih =>
    intro s
    have h := ih (s.tick s.input.busy)
    rw [State.pass_succ]
    constructor
    case cycle => rw [h.cycle, State.tick_cycle]; omega
    case draws => rw [h.draws, State.tick_draws]; omega
    case inputs => rw [h.inputs, State.tick_inputs, List.drop_tail]
    all_goals simp [h.en, h.ieDone, h.ieErr, h.done, h.err, h.errcode, h.errinfo, h.polls, h.q, h.eng, h.cur, h.k,
      h.rem, h.elapsed, h.idleCnt, h.csN, h.dc, h.sclk, h.mosi, h.tCsRise, h.tSclkFall, h.rstN, h.cfg]

/-- Before its wake edge a segment is not due, from then on it is. -/
theorem State.due_iff {s : State} {w pc : Nat} (hk : s.k = some ⟨w, pc⟩) : s.due = true ↔ w ≤ s.cycle + 1 := by
  simp [State.due, hk, Nat.ble_eq]

theorem State.due_false {s : State} {w pc : Nat} (hk : s.k = some ⟨w, pc⟩) (h : s.cycle + 1 < w) : s.due = false := by
  rw [← Bool.not_eq_true, State.due_iff hk]; omega

theorem State.due_true {s : State} {w pc : Nat} (hk : s.k = some ⟨w, pc⟩) (h : w ≤ s.cycle + 1) : s.due = true :=
  (State.due_iff hk).mpr h

/-- An edge of an op whose segment is not due. -/
theorem opEdge_wait {i : Instr} {s : State} (h : s.due = false) : opEdge i s = .next (s.tick s.input.busy) := by
  simp [opEdge, h]

/-- An edge of an op whose segment is due. -/
theorem opEdge_due {i : Instr} {s : State} (h : s.due = true) :
    opEdge i s = .next ((runProgram (programOf s.cfg i) s).tick s.input.busy) := by
  simp [opEdge, h, exec_eq]

/-- An op's run never stops the machine. -/
theorem opEdge_next (i : Instr) (s : State) : ∃ t, opEdge i s = .next t := by
  cases h : s.due with
  | true => exact ⟨_, opEdge_due h⟩
  | false => exact ⟨_, opEdge_wait h⟩

theorem opRun_add (i : Instr) (m n : Nat) : ∀ s : State,
    opRun i (m + n) s = match opRun i m s with
      | .next t => opRun i n t
      | .fault f => .fault f
      | .refused r => .refused r := by
  induction m with
  | zero => intro s; simp [opRun]
  | succ m ih =>
    intro s
    rw [Nat.succ_add]
    obtain ⟨t, ht⟩ := opEdge_next i s
    simp only [opRun, ht]
    exact ih t

/-- Runs in a row. -/
theorem opRun_trans {i : Instr} {m n : Nat} {s t u : State} (h : opRun i m s = .next t) (h' : opRun i n t = .next u) :
    opRun i (m + n) s = .next u := by rw [opRun_add, h]; exact h'

/-- Until the wake edge of its continuation, an op only lets cycles pass. -/
theorem opRun_wait (i : Instr) (n : Nat) : ∀ {s : State} {w pc : Nat}, s.k = some ⟨w, pc⟩ → s.cycle + n < w →
    opRun i n s = .next (s.pass n) := by
  induction n with
  | zero => intro s w pc _ _; rfl
  | succ n ih =>
    intro s w pc hk hw
    have hd : s.due = false := State.due_false hk (by omega)
    simp only [opRun, opEdge_wait hd, State.pass_succ]
    exact ih (w := w) (pc := pc) (by simpa using hk) (by simp; omega)

/-- With no continuation left, an op only lets cycles pass. -/
theorem opRun_ended (i : Instr) (n : Nat) : ∀ {s : State}, s.k = none → opRun i n s = .next (s.pass n) := by
  induction n with
  | zero => intro s _; rfl
  | succ n ih =>
    intro s hk
    have hd : s.due = false := by simp [State.due, hk]
    simp only [opRun, opEdge_wait hd, State.pass_succ]
    exact ih (by simpa using hk)

/-- The state in which the segment at `w` is the next to run: one cycle before its wake edge. -/
theorem wake_reached {s : State} {w pc : Nat} (hk : s.k = some ⟨w, pc⟩) (hw : s.cycle < w) (i : Instr) :
    opRun i (w - 1 - s.cycle) s = .next (s.pass (w - 1 - s.cycle)) ∧
    (s.pass (w - 1 - s.cycle)).now = w ∧ (s.pass (w - 1 - s.cycle)).due = true := by
  have hp := State.pass_passed (w - 1 - s.cycle) s
  refine ⟨opRun_wait i _ hk (by omega), by rw [now_eq, hp.cycle]; omega, ?_⟩
  exact State.due_true (hp.k.trans hk) (by rw [hp.cycle]; omega)

end Sys2Proof.Machine
end

