-- ==== Sys2Proof/Tests/Slice0.lean ====
section
/-! SUPPORT. Small tests against the vectors of spec/95_test_vectors.md and the rules named, and for every statement
with hypotheses a state that meets them. -/

namespace Sys2Proof.Tests

open Sys2Proof Sys2Proof.Machine

/-! ### Helpers -/

/-- A cycle without reset and access, the busy line low. -/
def quiet : Input := ⟨false, none, false⟩

/-- A cycle with one access. -/
def doing (a : Access) : Input := ⟨false, some a, false⟩

/-- An idle, enabled block. -/
def idle : State := { State.reset with en := true, inputs := [quiet, quiet, quiet] }

/-- A block in which the word has just been dispatched. -/
def running (w : Word) : State := { idle with eng := .exec, cur := w, k := some ⟨1, 0⟩ }

/-- The same, with a data transaction open. -/
def joining (w : Word) : State := { running w with csN := false, dc := true }

/-- A block that runs DELAY until far off, so that its engine is not free. -/
def waiting : State := { running 0x7000001E with k := some ⟨100, 4⟩ }

/-- A queue of one place, full. -/
def full (s : State) : State := { s with cfg := { s.cfg with qdepth := 1 }, q := [0] }

/-- The next state of an outcome. -/
def nextOf : Host.Outcome State Fault Refusal → Option State
  | .next t => some t
  | .fault _ => none
  | .refused _ => none

/-- What a meaning leaves, seen through `f`. -/
def seen {α : Type} (f : State → α) (i : Instr) (s : State) : Option α := (nextOf (exec i s)).map f

/-- What a step leaves, seen through `f`. -/
def stepped {α : Type} (f : State → α) (s : State) : Option α := (nextOf (step s)).map f

/-! ### Well-formedness (30_encoding.md R106, R120, R121) -/

theorem test_fill_of_no_bytes_is_refused : Instr.wellFormed (.fill 0 true 1) = false := by decide

theorem test_no_op_word_for_fill_of_no_bytes : asmOps (.fill true 1 0) = none := by decide

theorem test_assembler_refuses_fields_out_of_range :
    asmOps (.cmd 256) = none ∧ asmOps (.data true 256) = none ∧ asmOps (.pix false 8 0) = none ∧
    asmOps (.pix false 0 8) = none ∧ asmOps (.fill true 8 1) = none ∧ asmOps (.fill true 0 65536) = none ∧
    asmOps (.delay 1048576) = none ∧ asmOps (.cmdd 6 []) = none ∧ asmOps (.send [256]) = none ∧
    asmOps (.row 8) = none := by decide

theorem test_assembler_refuses_a_byte_out_of_range_in_a_list :
    assemble (.cmdd 6 [1, 256, 2]) = none ∧ assemble (.cmdd 256 [1]) = none ∧ assemble (.row 7) ≠ none := by decide

theorem test_table_with_an_empty_entry_is_refused :
    PanelTable.wf ⟨[(0x01, [])], 0x10, (0, 0, 0, 0), 0xA5⟩ = false := by decide

/-! ### Decoding (95_test_vectors.md 2.1) -/

theorem test_decode_nop : decode 0x00000000 = some .nop ∧ decode 0x00000001 = none := by decide

theorem test_decode_cmd :
    decode 0x10000004 = some (.cmd 0x04) ∧ decode 0x100000FF = some (.cmd 0xFF) ∧ decode 0x10000104 = none := by decide

theorem test_decode_data :
    decode 0x20000011 = some (.data false 0x11) ∧ decode 0x200001FF = some (.data true 0xFF) ∧
    decode 0x20000200 = none := by decide

theorem test_decode_pix :
    decode 0x30000023 = some (.pix false 2 3) ∧ decode 0x30000156 = some (.pix true 5 6) ∧
    decode 0x30000177 = some (.pix true 7 7) ∧ decode 0x30000044 = some (.pix false 4 4) ∧
    decode 0x30000008 = none ∧ decode 0x30000080 = none := by decide

theorem test_decode_fill :
    decode 0x40190101 = some (.fill 400 true 1) ∧ decode 0x40001000 = some (.fill 1 false 0) ∧
    decode 0x4FFFF107 = some (.fill 65535 true 7) ∧ decode 0x40000101 = none ∧ decode 0x40190108 = none ∧
    decode 0x40190301 = none := by decide

theorem test_decode_reset_and_waitidle :
    decode 0x50000000 = some .reset ∧ decode 0x50000001 = none ∧ decode 0x60000000 = some .waitidle ∧
    decode 0x60000010 = none := by decide

theorem test_decode_delay :
    decode 0x70000000 = some (.delay 0) ∧ decode 0x7000001E = some (.delay 30) ∧
    decode 0x700FFFFF = some (.delay 1048575) ∧ decode 0x70100000 = none := by decide

theorem test_decode_other_opcodes : decode 0x80000000 = none ∧ decode 0xF0000000 = none := by decide

theorem test_decode_table_word : decodeTableWord 32 0x40190101 = some (.fill 400 true 1) := by decide

/-- No word has the fixed bits of two rows of the table. -/
theorem test_table_rows_do_not_overlap :
    opcodeTable.Pairwise (fun a b => (a.pattern ^^^ b.pattern) &&& (a.mask &&& b.mask) ≠ 0) := by decide

theorem test_assemble_line :
    parseLine "  fill.l white, 400 ; a row".toList = some (some (.fill true 1 400)) ∧
    parseLine "data 0x1F".toList = some (some (.data false 31)) ∧ parseLine "; nothing".toList = some none ∧
    parseLine "jump 3".toList = none := by decide

theorem test_assemble_row : assemble (.row 1) = some [.op 0x40190101] := by decide

/-- 44_host_sequences.md R227, phase 3, and LAST on the last byte only (30_encoding.md R121). -/
theorem test_assemble_lists :
    assemble (.cmdd 0x12 [0x00]) = some [.op 0x10000012, .op 0x20000100] ∧
    assemble (.send [1, 2, 3]) = some [.op 0x20000001, .op 0x20000002, .op 0x20000103] := by decide

/-! ### Codec (95_test_vectors.md 2.2) -/

theorem test_pack :
    pack 1 0 = 0x10 ∧ pack 0 1 = 0x01 ∧ pack 2 3 = 0x23 ∧ pack 6 5 = 0x65 ∧ pack 4 1 = 0x41 ∧ pack 7 7 = 0x77 := by
  decide

/-! ### One step of each op -/

/-- V-F4: a NOP inside a transaction ends in one segment, CS_N low. -/
theorem test_nop : seen (fun t => (t.k, t.csN)) .nop (joining 0) = some (none, false) := by decide

/-- V-F1: DC at D+1, CS_N still high, the next segment one T_DCS later. -/
theorem test_cmd_sets_dc :
    seen (fun t => (t.dc, t.csN, t.k)) (.cmd 0x04) { running 0x10000004 with dc := true } =
      some (false, true, some ⟨2, 6⟩) := by decide

/-- V-F3: CMD closes an open data transaction in its first segment and sets DC no earlier than one edge later. -/
theorem test_cmd_closes :
    seen (fun t => (t.csN, t.dc, t.tCsRise, t.k.map Resume.wake)) (.cmd 0x12) (joining 0x10000012) =
      some (true, true, some 1, some 2) := by decide

/-- V-F4: a byte that joins an open transaction begins at D+1 with its bit 7. -/
theorem test_data_joins :
    seen (fun t => (t.csN, t.sclk, t.mosi, t.k.map Resume.wake)) (.data true 0x80) (joining 0x20000180) =
      some (false, false, true, some 2) := by decide

/-- V-F2: DC = 1 before CS_N falls. -/
theorem test_data_opens :
    seen (fun t => (t.csN, t.dc)) (.data true 0x11) (running 0x20000111) = some (true, true) := by decide

/-- 41_codec.md R165: bit 7 of a packed byte is 0; the left pixel's most significant bit is bit 6. -/
theorem test_pix_bit6 :
    seen (fun t => t.mosi) (.pix true 4 0) { joining 0x30000140 with mosi := false, k := some ⟨1, 11⟩ } =
      some true := by decide

/-- V-L1: `rem` is COUNT when the first byte begins. -/
theorem test_fill_begins :
    seen (fun t => (t.rem, t.sclk, t.mosi)) (.fill 3 true 1) (joining 0x40003101) = some (3, false, false) := by decide

/-- V-L1: after a byte the next begins in the same segment. -/
theorem test_fill_goes_on :
    seen (fun t => (t.rem, t.sclk, t.mosi, t.tSclkFall, t.k.map Resume.wake)) (.fill 3 true 1)
      { joining 0x40003101 with rem := 3, mosi := true, sclk := true, k := some ⟨1, 40⟩ } =
      some (2, false, false, some 1, some 2) := by decide

/-- V-R1: RST(1, D+1), and the fall 50 ms later. -/
theorem test_reset_begins :
    seen (fun t => (t.rstN, t.k.map Resume.wake)) .reset (running 0x50000000) = some (true, some 51) := by decide

/-- V-W1: an idle first sample ends the op with POLLS = 1. -/
theorem test_waitidle_succeeds :
    seen (fun t => (t.k, t.polls)) .waitidle { running 0x60000000 with bsync2 := true } = some (none, 1) := by decide

/-- V-W2: the bound is reached after the last sleep, without a further sample. -/
theorem test_waitidle_times_out :
    seen (fun t => (t.polls, t.err, t.errcode, t.errinfo)) .waitidle
      { running 0x60000000 with polls := 3, elapsed := 499990, k := some ⟨1, 5⟩ } =
      some (3, true, 1, 0x60000000) := by decide

/-- 43_reset_timer.md R203: 30 ms are 30 * TICK_DIV cycles from D+1; no milliseconds end at once. -/
theorem test_delay :
    seen (fun t => t.k.map Resume.wake) (.delay 30) (running 0x7000001E) = some (some 31) ∧
    seen (fun t => t.k) (.delay 0) (running 0x70000000) = some none := by decide

/-! ### Steps, port and errors -/

/-- V-L4: COUNT = 0 is an illegal word when dispatched. -/
theorem test_illegal_word :
    stepped (fun t => (t.err, t.errcode, t.errinfo, t.eng, t.csN)) (running 0x40000103) =
      some (true, 2, 0x40000103, .idle, true) := by decide

/-- 40_framer.md R130: the head is dispatched and leaves the queue. -/
theorem test_dispatch :
    stepped (fun t => (t.eng, t.cur, t.q, t.k)) { idle with q := [0x10000004, 0] } =
      some (.exec, 0x10000004, [0], some ⟨2, 0⟩) := by decide

/-- 60_exceptions.md R262, 5: a flush beats a dispatch. -/
theorem test_flush_beats_dispatch :
    stepped (fun t => (t.eng, t.q, t.done)) { idle with q := [0], inputs := [doing (.write 0x00 0x3)] } =
      some (.idle, [], true) := by decide

/-- 20_memory.md R77: fullness is judged before the dispatch of the same edge. -/
theorem test_overflow_at_a_dispatch :
    stepped (fun t => (t.err, t.errcode, t.errinfo, t.eng, t.q))
      (full { idle with inputs := [doing (.write 0x08 0x10000004)] }) =
      some (true, 3, 0x10000004, .idle, []) := by decide

/-- 60_exceptions.md R266: the end of the last op sets DONE. -/
theorem test_done : stepped (fun t => (t.done, t.eng)) (running 0) = some (true, .idle) := by decide

/-- 10_state.md R60: the registers after reset. -/
theorem test_reset_registers :
    [State.reset.ctrlValue, State.reset.statusValue, State.reset.errinfo, State.reset.polls, State.reset.pinsValue] =
      [0, 1, 0, 0, 5] := by decide

/-- 20_memory.md R73: an illegal write answers `h_rdata` = 0 with the error; R79: in block reset a legal read has no
error. -/
theorem test_error_responses :
    respond idle (some (.write 0x18 5)) = .write (some 0) true ∧
    respond idle (some (.write 0x0C 5)) = .write none true ∧
    respondInReset (some (.read 0x04)) = .read 0 false ∧ respondInReset (some (.read 0x1C)) = .read 0 true := by decide

/-- 95_test_vectors.md V-R1: the reset events of a RESET, as the golden check sees them. -/
theorem test_observed_reset :
    observe 1 (running 0x50000000) = [.rst true] ∧
    observe 1 { running 0x50000000 with k := some ⟨1, 9⟩, rstN := true } = [] := by decide

/-- 44_host_sequences.md R226: an idle wait and a delay are seen in the edge that begins them. -/
theorem test_observed_waits :
    observe 1 (running 0x60000000) = [.idleWait] ∧ observe 1 (running 0x7000001E) = [.delay 30] := by decide

/-! ### Host duties (44_host_sequences.md R224, R235 to R237) -/

/-- A panel table with one entry. -/
def somePanel : PanelTable := ⟨[(0x01, [0x07, 0x08])], 0x10, (1, 2, 3, 4), 0xA5⟩

/-- What the panel needs after the ops, which find it awake and owed nothing. -/
def dutyOf (ops : List Instr) : Option Duty := dutyAfter somePanel (.ready false) ops

/-- R235: exactly one wait after a busy-causing command, and none after `OPC_DTM`. -/
theorem test_waits_are_exactly_one :
    dutyOf [.cmd 0x04, .waitidle] = some (.ready false) ∧ dutyOf [.cmd 0x04, .waitidle, .waitidle] = none ∧
    dutyOf [.cmd 0x10, .waitidle] = none ∧ dutyOf [.cmd 0x06, .waitidle] = none := by decide

/-- R298: data of a busy-causing command that a DELAY would close. -/
theorem test_delay_inside_owed_data_is_refused :
    dutyOf [.cmd 0x12, .data false 0] = none ∧ dutyOf [.cmd 0x06, .data false 1, .delay 1] = none := by decide

/-- R299 and R236: 0x07 takes its one byte, then nothing but RESET and a whole `init`. -/
theorem test_only_init_follows_deep_sleep :
    dutyOf [.cmd 0x07, .data true 0xA5] = some .asleep ∧ dutyOf [.cmd 0x07, .data false 0xA5] = none ∧
    dutyAfter somePanel .asleep [.data true 0] = none ∧ dutyAfter somePanel .asleep [.waitidle] = none ∧
    dutyAfter somePanel .asleep [.reset, .waitidle, .cmd 0x10] = none := by decide

/-- R224: no frame operation comes before `init`, which comes once. -/
theorem test_lifecycle :
    sessionOps somePanel .fresh [.flood 1] = none ∧ sessionOps somePanel .fresh [.init, .init] = none ∧
    dutyAfter somePanel .uninitialised [.cmd 0x10] = none ∧
    (sessionOps somePanel .fresh [.init, .deepSleep, .init]).isSome = true := by decide

/-- A session whose first `init` has ended with the result `r`. -/
def initEnded (r : CallResult) : Session := ⟨.fresh, .init, ⟨bootCall somePanel, [], 0, 0, 1, .done r⟩⟩

/-- 70_reset_and_hazards.md R295: no frame after an `init` that timed out, but `init` again, ERR cleared first; a frame
after one that succeeded. -/
theorem test_frames_wait_for_an_init_without_error :
    (initEnded .timeout).next somePanel (.flood 1) = none ∧
    ((initEnded .timeout).next somePanel .init).map (fun g => g.host.access) = some (some (.write 0x04 0x20)) ∧
    ((initEnded .success).next somePanel (.flood 1)).map Session.life = some .ready ∧
    ((initEnded .success).next somePanel .init) = none := by decide

/-- Log entry 14: where the checker lets a DELAY stand. -/
theorem test_delays :
    dutyOf [.cmd 0x04, .delay 1, .waitidle] = some (.ready false) ∧ dutyOf [.reset, .delay 1] = none ∧
    dutyOf [.cmd 0x10, .delay 1] = some (.frame 0) ∧
    Duty.after somePanel (.owing (refreshOps somePanel)) (.delay 1) = none := by decide

/-- R232: a range may be empty, and its colour then stands in no row. -/
theorem test_empty_stripe :
    stripeRows 478 [(478, 3), (479, 1), (479, 2), (480, 6), (480, 5)] = some [1, 6] ∧
    stripeRows 478 [(480, 3), (479, 1), (480, 2)] = none ∧ stripeRows 478 [(481, 3)] = none := by decide

/-- R237: a program that leaves a data transaction open does not keep the duties. -/
theorem test_open_transaction_at_the_end :
    keepsDuties somePanel (.ready false) [.cmd 0x20, .data false 1] = false ∧
    keepsDuties somePanel (.ready false) [.cmd 0x20, .data true 1] = true := by decide

/-- A word placed in the reset state is run by the next step: its first segment sets RST_N and waits. -/
theorem test_placed_word_runs :
    stepped (fun t => (t.eng, t.cur, t.k)) (State.reset.withFetchWord 32 0x50000000) =
      some (.exec, 0x50000000, some ⟨51, 5⟩) := by decide

/-! ### Witnesses: states and operands that meet the hypotheses of the statements -/

/-- A cycle with `rst_sys` asserted and a read of STATUS. -/
def resetting : State := { idle with q := [0], inputs := [⟨true, some (.read 0x04), false⟩] }

theorem witness_ResetGivesEveryFieldItsValue :
    (∃ t, clockEdge ⟨true, none, false⟩ waiting = .next t ∧ t.cfg.Valid) ∧ resetting.input.rst = true ∧
    State.reset.cfg.Valid := ⟨⟨_, rfl, by decide⟩, rfl, by decide⟩

theorem witness_BlockResetOverridesTheEdge :
    resetting.cfg.Valid ∧ resetting.input.rst = true ∧ resetting.input.access = some (.read 0x04) ∧
    ({ resetting with inputs := [⟨true, some (.write 0x1C 7), false⟩] } : State).input.access =
      some (.write 0x1C 7) := by decide

theorem witness_StepAnswersWithinTheRanges :
    idle.cfg.Valid ∧ ¬ ({ idle with cfg := { idle.cfg with qdepth := 256 } } : State).cfg.Valid ∧
    ¬ ({ idle with cfg := { idle.cfg with sckHalf := 0 } } : State).cfg.Valid := by decide

theorem witness_StepRunsTheDecodedOp :
    (running 0x10000004).cfg.Valid ∧ (running 0x10000004).input.rst = false ∧ (running 0x10000004).eng = .exec ∧
    (running 0x10000004).due = true ∧ decode (running 0x10000004).cur = some (.cmd 0x04) := by decide

theorem witness_StepRunsAPlacedWord :
    idle.cfg.Valid ∧ idle.input.rst = false ∧ WellFormed (.fill 1 false 7) ∧ WellFormed (.delay 0xFFFFF) := by decide

theorem witness_DecodeOfEncodeIsTheOp : WellFormed (.fill 65535 true 7) ∧ WellFormed (.pix true 4 7) := by decide

theorem witness_EncodeOfDecodeIsTheWord : decode 0x4FFFF107 = some (.fill 65535 true 7) := by decide

theorem witness_DecoderFollowsTheTable :
    decode 0x40001000 = some (.fill 1 false 0) ∧ OpRow.admits ⟨"fill", 0x40000000, 0xF0000EF8⟩ 0x40001000 = true ∧
    ⟨"fill", 0x40000000, 0xF0000EF8⟩ ∈ opcodeTable := by decide

theorem witness_OperandsAreTheWordsBits :
    decode 0x100000FF = some (.cmd 0xFF) ∧ decode 0x200001FF = some (.data true 0xFF) ∧
    decode 0x30000177 = some (.pix true 7 7) ∧ decode 0x4FFFF107 = some (.fill 65535 true 7) ∧
    decode 0x700FFFFF = some (.delay 0xFFFFF) := by decide

theorem witness_PackedByteHoldsBothPixels :
    (0x77 : Byte).getLsbD 7 = false ∧ (0x77 : Byte).getLsbD 3 = false ∧ pack 7 7 = pack 7 7 := by decide

theorem witness_StatusShowsItsFields :
    ({ idle with q := List.replicate 255 0 } : State).q.length ≤ 255 ∧ idle.q.length ≤ 255 :=
  ⟨Nat.le_of_eq List.length_replicate, by decide⟩

theorem witness_ReadsGiveValuesAndChangeNothing : Reg.ofOffset 0x18 = none ∧ Reg.ofOffset 0x15 = none := by decide

theorem witness_IllegalOffsetsGetTheErrorResponse :
    ((0x01 : Offset).toNat % 4 ≠ 0) ∧ ((0x1F : Offset).toNat % 4 ≠ 0) ∧
    (∀ off : Offset, off = 0x00 ∨ off = 0x14 → ¬ (off.toNat % 4 ≠ 0 ∨ off = 0x18 ∨ off = 0x1C)) := by decide

theorem witness_ReadOnlyRegistersRefuseWrites :
    ∀ off : Offset, off = 0x0C ∨ off = 0x10 ∨ off = 0x14 → Reg.ofOffset off ≠ none := by decide

theorem witness_CtrlWriteSetsEnablesAndFlushes :
    (0x3 : Word).getLsbD 1 = true ∧ (0x31 : Word).getLsbD 1 = false ∧
    engineFree idle (afterSegment none idle) = true ∧ engineFree waiting (afterSegment none waiting) = false ∧
    (0xFFFFFFCC : Word).getLsbD 4 = (0 : Word).getLsbD 4 := by decide

theorem witness_StatusWriteClearsStickyBits :
    (0x30 : Word).getLsbD 4 = true ∧ (0x30 : Word).getLsbD 5 = true ∧
    engineRaised waiting (afterSegment (some (.write 0x04 0x30)) waiting) = false ∧
    (0xFFFFFFFF : Word).getLsbD 4 = (0x30 : Word).getLsbD 4 ∧
    (0xFFFFFFFF : Word).getLsbD 5 = (0x30 : Word).getLsbD 5 := by decide

theorem witness_OpWriteQueuesDropsOrOverflows :
    ({ idle with err := true, errcode := 2 } : State).err = true ∧ idle.err = false ∧
    idle.q.length ≠ idle.cfg.qdepth ∧ (full idle).err = false ∧ (full idle).q.length = (full idle).cfg.qdepth ∧
    engineRaised (full idle) (afterSegment none (full idle)) = false := by decide

theorem witness_IllegalWordIsRecordedAndFlushes :
    (running 0x80000000).cfg.Valid ∧ (running 0x80000000).input.rst = false ∧ (running 0x80000000).eng = .exec ∧
    (running 0x80000000).due = true ∧ legal (running 0x80000000).cur = false ∧ (running 0x80000000).err = false ∧
    clears 5 (some (.write 0x04 0x20)) = true := by decide

theorem witness_OverflowLeavesTheRunningOp :
    (full waiting).err = false ∧ (full waiting).q.length = (full waiting).cfg.qdepth ∧
    engineFree (full waiting) (afterSegment none (full waiting)) = false ∧
    engineRaised (full waiting) (afterSegment none (full waiting)) = false ∧
    (full (running 0x80000000)).err = false ∧
    engineRaised (full (running 0x80000000)) (afterSegment none (full (running 0x80000000))) = true := by decide

/-- A running block with an error that stands. -/
def failed (s : State) : State := { s with err := true, errcode := 3, errinfo := 0x10000004 }

theorem witness_ErrorProcedureRecordsTheFirstError :
    (∃ t, step (failed waiting) = .next t) ∧ (failed waiting).err = true ∧
    clears 5 (failed waiting).input.access = false ∧ (∃ t, step (running 0x80000000) = .next t) ∧
    engineRaised (running 0x80000000) (afterSegment none (running 0x80000000)) = true ∧
    offer (full { waiting with inputs := [doing (.write 0x08 7)] }) (some (.write 0x08 7)) = .overflow 7 ∧
    (∃ t, step (full { waiting with inputs := [doing (.write 0x08 7)] }) = .next t) :=
  ⟨⟨_, rfl⟩, rfl, by decide, ⟨_, rfl⟩, by decide, by decide, ⟨_, rfl⟩⟩

theorem witness_NothingIsDispatchedWhileErr :
    ∃ t, step (failed { idle with csN := false }) = .next t ∧ (failed { idle with csN := false }).eng = .idle ∧
      hostFlush (failed { idle with csN := false }).input.access = false ∧ t.eng = .close := ⟨_, rfl, by decide⟩

theorem witness_DoneIsSetWhenTheBlockBecomesIdle :
    (running 0).input.rst = false ∧ ∃ t, step (running 0) = .next t := ⟨rfl, _, rfl⟩

theorem witness_DispatchFollowsItsRule :
    (∃ t, step waiting = .next t) ∧ engineFree waiting (afterSegment none waiting) = false ∧
    (∃ t, step (failed { idle with csN := false }) = .next t ∧ t.csN = false) ∧
    (∃ t, step (failed idle) = .next t ∧ t.csN = true) ∧
    flushAt idle (afterSegment none idle) (some (.write 0x00 0x3)) = true ∧
    engineFree idle (afterSegment none idle) = true ∧ flushAt idle (afterSegment none idle) none = false ∧
    ({ idle with q := [5] } : State).q = 5 :: [] ∧ idle.q = [] ∧ ({ idle with en := false } : State).en = false :=
  ⟨⟨_, rfl⟩, by decide, ⟨_, rfl, rfl⟩, ⟨_, rfl, rfl⟩, by decide, by decide, by decide, rfl, rfl, rfl⟩

/-- An idle block whose host writes an op word now and then nothing. -/
def offered : State := { idle with inputs := [doing (.write 0x08 0x10000004), quiet] }

theorem witness_WrittenWordIsDispatchedAtTheSecondEdge :
    offered.input = ⟨false, some (.write 0x08 0x10000004), offered.input.busy⟩ ∧ offered.eng = .idle ∧
    offered.en = true ∧ offered.err = false ∧ offered.q = [] ∧
    ∃ t u, step offered = .next t ∧ t.input.rst = false ∧ t.input.access = none ∧ step t = .next u :=
  ⟨rfl, rfl, rfl, rfl, rfl, _, _, rfl, rfl, rfl, rfl⟩

/-- CLOSE has just been started, the last SCLK fall being at the edge given. -/
def closing (fall : Nat) : State :=
  { failed idle with csN := false, eng := .close, k := some ⟨1, 0⟩, tSclkFall := some fall }

theorem witness_CloseRaisesChipSelect :
    (closing 0).cfg.Valid ∧ (closing 0).input.rst = false ∧ (closing 0).eng = .close ∧
    (closing 0).k = some ⟨(closing 0).cycle + 1, 0⟩ ∧
    afterEdge (closing 0).tSclkFall (closing 0).cfg.tCsh ≤ (closing 0).now ∧
    (closing 1).now < afterEdge (closing 1).tSclkFall (closing 1).cfg.tCsh := by decide

theorem witness_SynchronizerTakesTwoEdges :
    idle.input.rst = false ∧ ∃ t u, step idle = .next t ∧ t.input.rst = false ∧ step t = .next u :=
  ⟨rfl, _, _, rfl, rfl, rfl⟩

/-- The invariant holds of a block in reset state's fields, enabled and idle. -/
theorem idle_inv : Inv idle := by
  constructor <;> first | decide | simp [idle, State.reset]

theorem idle_counters : CounterInv idle := by
  constructor <;> simp [idle, State.reset]

theorem witness_StepKeepsTheInvariant : Inv idle ∧ ∃ t, step idle = .next t := ⟨idle_inv, _, rfl⟩

theorem witness_StepKeepsTheWireGuarantees : Inv idle ∧ idle.input.rst = false ∧ ∃ t, step idle = .next t :=
  ⟨idle_inv, rfl, _, rfl⟩

theorem witness_StepKeepsTheCounters : Inv idle ∧ CounterInv idle ∧ ∃ t, step idle = .next t :=
  ⟨idle_inv, idle_counters, _, rfl⟩

theorem witness_WhoWritesErrinfoPollsAndPanelReset :
    (∃ t, step (running 0x80000000) = .next t ∧ t.errinfo ≠ (running 0x80000000).errinfo) ∧
    (∃ t, step (running 0x60000000) = .next t ∧ t.polls ≠ (running 0x60000000).polls) ∧
    (∃ t, step { running 0x50000000 with rstN := false } = .next t ∧ t.rstN ≠ false) :=
  ⟨⟨_, rfl, by decide⟩, ⟨_, rfl, by decide⟩, ⟨_, rfl, by decide⟩⟩

/-- A running CMD, while the host flushes the queue and clears EN. -/
def disturbed : State := { running 0x10000004 with inputs := [doing (.write 0x00 0x2)] }

theorem witness_HostCannotDisturbARunningOp :
    disturbed.cfg.Valid ∧ disturbed.input.rst = false ∧ disturbed.eng = .exec ∧
    decode disturbed.cur = some (.cmd 0x04) ∧
    ∃ t u, opEdge (.cmd 0x04) disturbed = .next u ∧ u.k ≠ none ∧ step disturbed = .next t :=
  ⟨by decide, rfl, rfl, by decide, _, _, rfl, by decide, rfl⟩

theorem witness_FramerOpsFrame :
    (∃ t, exec (.cmd 4) (running 0x10000004) = .next t) ∧ (∃ t, exec (.data true 4) (joining 0) = .next t) ∧
    (∃ t, exec (.pix true 4 4) (joining 0) = .next t) ∧ (∃ t, exec (.fill 3 true 4) (joining 0) = .next t) :=
  ⟨⟨_, rfl⟩, ⟨_, rfl⟩, ⟨_, rfl⟩, ⟨_, rfl⟩⟩

theorem witness_ResetAndDelayFrame :
    (∃ t, exec .reset (running 0x50000000) = .next t) ∧ (∃ t, exec (.delay 3) (running 0x70000003) = .next t) :=
  ⟨⟨_, rfl⟩, ⟨_, rfl⟩⟩

theorem witness_WaitIdleFrame : ∃ t, exec .waitidle (running 0x60000000) = .next t := ⟨_, rfl⟩

theorem witness_OpsBeginAsWritten :
    (running 0).cfg.Valid ∧ startsNext (running 0) ∧ (running 0).csN = true ∧
    afterEdge (running 0).tCsRise 1 ≤ (running 0).now ∧ startsNext (joining 0) ∧ (joining 0).csN = false ∧
    afterEdge ({ running 0 with tCsRise := some 0 } : State).tCsRise 1 ≤ (running 0).now :=
  ⟨by decide, rfl, rfl, by decide, rfl, rfl, by decide⟩

theorem witness_OpsEndAsWritten :
    (joining 0).cfg.Valid ∧ afterEdge (joining 0).tSclkFall (joining 0).cfg.tCsh ≤ (joining 0).now ∧
    (∀ pc, ({ joining 0 with k := some ⟨1, pc⟩ } : State).k = some ⟨1, pc⟩) ∧
    ({ joining 0 with rem := 1 } : State).rem ≤ 1 ∧ 1 < ({ joining 0 with rem := 2 } : State).rem :=
  ⟨by decide, by decide, fun _ => rfl, by decide, by decide⟩

theorem witness_NopEndsInItsFirstSegment :
    startsNext (running 0) ∧ opcodeOf 0x00000001 = 0x0 ∧ (0x00000001 : Word) ≠ 0 := ⟨rfl, by decide, by decide⟩

/-- The hypotheses of the statements on whole ops: parameters in range, and the op starting at the next edge, with CS_N
high (`running`) or a data transaction open (`joining`). -/
theorem witness_ops_start :
    (running 0x10000004).cfg.Valid ∧ startsNext (running 0x10000004) ∧ startsNext (joining 0x10000004) ∧
    (1 : BitVec 16) ≠ 0 ∧ (65535 : BitVec 16) ≠ 0 := ⟨by decide, rfl, rfl, by decide, by decide⟩

theorem witness_CmdRunsToItsEnd : (joining 0x10000004).cfg.Valid ∧ startsNext (joining 0x10000004) := ⟨by decide, rfl⟩

theorem witness_DataRunsToItsEnd : (joining 0x20000011).cfg.Valid ∧ startsNext (joining 0x20000011) := ⟨by decide, rfl⟩

theorem witness_PixRunsToItsEnd : (joining 0x30000023).cfg.Valid ∧ startsNext (joining 0x30000023) := ⟨by decide, rfl⟩

theorem witness_FillRunsToItsEnd :
    (running 0x40001000).cfg.Valid ∧ startsNext (running 0x40001000) ∧ (1 : BitVec 16) ≠ 0 := ⟨by decide, rfl, by decide⟩

theorem witness_ResetDrivesHighLowHigh :
    (joining 0x50000000).cfg.Valid ∧ startsNext (joining 0x50000000) := ⟨by decide, rfl⟩

theorem witness_DelayWaitsItsMilliseconds :
    (joining 0x70000000).cfg.Valid ∧ startsNext (joining 0x70000000) := ⟨by decide, rfl⟩

theorem witness_WaitIdleTakesItsFirstSample :
    startsNext (running 0x60000000) ∧ (running 0x60000000).csN = true ∧ startsNext (joining 0x60000000) ∧
    afterEdge (joining 0x60000000).tSclkFall (joining 0x60000000).cfg.tCsh ≤ (joining 0x60000000).now :=
  ⟨rfl, rfl, rfl, by decide⟩

/-- A WAIT_IDLE that has slept until now, `ms` milliseconds before this sleep. -/
def slept (ms : Nat) : State := { running 0x60000000 with polls := 1, elapsed := ms, k := some ⟨1, 5⟩ }

theorem witness_WaitIdleSamplesAgainOrTimesOut :
    (slept 499990).k = some ⟨1, pollWakeIndex⟩ ∧
    (slept 499990).cfg.timeoutMs ≤ (slept 499990).elapsed + (slept 499990).cfg.pollMs ∧
    (slept 499989).elapsed + (slept 499989).cfg.pollMs < (slept 499989).cfg.timeoutMs := by decide

theorem witness_WaitIdleAlwaysEnds :
    (joining 0x60000000).cfg.Valid ∧ startsNext (joining 0x60000000) := ⟨by decide, rfl⟩

/-- A WAIT_IDLE of one sample on a line that stays busy. -/
def alwaysBusy : State :=
  { running 0x60000000 with cfg := { Config.default with pollMs := 1, timeoutMs := 1 } }

theorem witness_WaitIdleTimesOutWhenAlwaysBusy :
    alwaysBusy.cfg.Valid ∧ startsNext alwaysBusy ∧ alwaysBusy.err = false ∧
    alwaysBusy.bsync1 ≠ alwaysBusy.cfg.busyIdleLevel ∧ alwaysBusy.bsync2 ≠ alwaysBusy.cfg.busyIdleLevel ∧
    autoClosedAt alwaysBusy alwaysBusy.now + maxSamples alwaysBusy.cfg * pollCycles alwaysBusy.cfg ≤
      alwaysBusy.inputs.length ∧
    (∀ inp ∈ alwaysBusy.inputs, inp.busy ≠ alwaysBusy.cfg.busyIdleLevel) := ⟨by decide, rfl, by decide⟩

theorem witness_CmdSendsOneCommandTransaction :
    (joining 0x10000004).cfg.Valid ∧ startsNext (joining 0x10000004) := ⟨by decide, rfl⟩

theorem witness_DataAndPixSendTheirByte :
    (joining 0x20000011).cfg.Valid ∧ startsNext (joining 0x20000011) := ⟨by decide, rfl⟩

theorem witness_FillSendsItsByteCountTimes :
    (running 0x40001000).cfg.Valid ∧ startsNext (running 0x40001000) ∧ (1 : BitVec 16) ≠ 0 := ⟨by decide, rfl, by decide⟩

theorem witness_HostProgramWordsAndTraces : somePanel.wf = true := by decide

theorem witness_FramesAreSentRowByRow :
    (List.replicate 192000 (0 : Byte)).length = 192000 ∧ ([] : List Byte).length ≠ 192000 ∧
    (∃ ops, stripeOps somePanel [(0, 2), (1, 1), (480, 6)] = some ops) ∧
    [0, 0, 1, 480][2]? = some 1 ∧ [((0 : Nat), (2 : Colour)), (1, 1), (480, 6)][2]? = some (480, 6) :=
  ⟨List.length_replicate, by decide, ⟨_, rfl⟩, rfl, rfl⟩

theorem witness_FrameBytesHoldTheirPixels : 799 < 800 ∧ 479 < 480 ∧ 799 % 2 ≠ 0 ∧ 0 % 2 = 0 := by decide

theorem witness_ProgramsPutTheirWaits :
    somePanel.opcDtm ∉ [0x04, 0x06, 0x12, 0x02, 0x07] ∧
    (∃ ops, transferOps somePanel (List.replicate 192000 0) = some ops) ∧
    (∃ ops, stripeOps somePanel [(1, 1), (480, 6)] = some ops) ∧
    (∃ opss, sessionOps somePanel .fresh [.init, .flood 1, .stripes [(480, 2)], .deepSleep, .init] = some opss) ∧
    Instr.reset ≠ .nop ∧ Instr.reset ≠ .waitidle ∧ (∀ m, Instr.reset ≠ .delay m) ∧
    Instr.waitidle ≠ .reset ∧ Call.deepSleep ≠ .init ∧
    (∃ ops, dutyAfter somePanel .uninitialised ops = some (.ready true)) ∧ somePanel.wf = true ∧
    (∀ r, ({ initEnded .timeout with host := { (initEnded .timeout).host with phase := .running } } : Session).host.phase ≠
      .done r) ∧
    ((initEnded .timeout).host.phase = .done .timeout ∧ CallResult.timeout ≠ .success ∧ (initEnded .timeout).life ≠ .ready) ∧
    (∃ g', (initEnded .success).next somePanel .deepSleep = some g') ∧
    (∃ g', (initEnded .timeout).again 0 = some g') ∧
    (∃ ops, (initEnded .success).host.phase = .done .success ∧ Call.ops somePanel (.flood 1) = some ops) :=
  ⟨by decide, ⟨_, if_pos List.length_replicate⟩, ⟨_, rfl⟩, ⟨_, rfl⟩, by decide, by decide, (by intro m h; cases h),
    by decide, by decide, ⟨initOps somePanel ++ [.cmd 0x20, .data false 1], by decide⟩, by decide, (by intro r h; cases h),
    by decide, ⟨_, rfl⟩, ⟨_, rfl⟩, _, rfl, rfl⟩

/-- A host with one credit that has an op word to write. -/
def writing : HostState := ⟨[.op 0x10000004, .sync], [.op 0x10000004, .sync], 0, 1, 1, .running⟩

/-- A host whose call of three actions has failed, the first of them known to be over. -/
def givenUp : HostState := ⟨[.op 0, .op 1, .sync], [.sync], 1, 0, 1, .done .timeout⟩

/-- A host whose call has succeeded. -/
def finished : HostState := ⟨[.sync], [], 0, 0, 1, .done .success⟩

theorem witness_FlowControlNeverOverflows :
    (idle.cfg.Valid ∧ idle.q.length ≤ idle.cfg.qdepth ∧ CreditFits writing idle ∧ writing.sure ≤ writing.made ∧
      ∃ h' s', loopEdge false writing idle = (h', .next s')) ∧
    ((failed idle).err = true ∧ ∃ h' s', loopEdge false writing (failed idle) = (h', .next s')) ∧
    (∃ h', givenUp.nextCall [.sync] = some h' ∧ givenUp.mustClear = true) ∧
    (∃ h', finished.nextCall [.sync] = some h' ∧ finished.mustClear = false) ∧
    (∃ h', givenUp.writeAgain 1 = some h') :=
  ⟨⟨by decide, by decide, by unfold CreditFits; decide, by decide, _, _, rfl⟩, ⟨rfl, _, _, rfl⟩, ⟨_, rfl, rfl⟩,
    ⟨_, rfl, rfl⟩, _, rfl⟩

theorem witness_FlowControlNeverOverflows_success :
    ∃ h' s', loopEdge false ⟨[.sync], [.sync], 0, 0, 1, .running⟩ idle = (h', .next s') ∧ h'.phase = .done .success :=
  ⟨_, _, rfl, by decide⟩

/-- R295 and R256: an `init` whose words were queued and then flushed cannot be ended by a `sync` alone, nor be gone on
with anywhere but at its start; of a call, the words STATUS shows in the queue or running are not over. -/
theorem test_init_is_written_again_whole :
    (initEnded .timeout).again 1 = none ∧
    ((initEnded .timeout).again 0).map (fun g => g.host.call) = some (clearAction :: bootCall somePanel) ∧
    { writing with todo := [.sync] }.ranCount 1 = 0 ∧ { writing with todo := [.sync] }.ranCount 0 = 1 ∧
    unfinished 0x00030002 = 4 := by decide

/-- A word dropped after the last sure action is no point to go on from (R237). -/
theorem test_no_writing_again_past_a_dropped_word : givenUp.writeAgain 2 = none := by decide

end Sys2Proof.Tests
end

section
/-! The family 00_scope.md: what a step answers inside and outside the parameter ranges of R9. -/

namespace Sys2Proof.Machine

/-- Within the ranges a step is block reset or an edge, and either is a next state. -/
theorem step_next_of_valid {s : State} (hv : s.cfg.Valid) : ∃ t, step s = .next t := by
  obtain ⟨hn, -⟩ | ⟨-, -, hreset⟩ | ⟨-, -, hedge⟩ := step_cases s
  · exact absurd hv hn
  · exact ⟨_, hreset⟩
  · exact ⟨_, hedge⟩

/-- Outside the ranges the model does not say what the block does (log entry 4). -/
theorem step_fault_of_not_valid {s : State} (hn : ¬ s.cfg.Valid) : step s = .fault .parameterOutOfRange :=
  if_neg hn

/-- Settles O3: a segment never stops the machine, so `step_cases` leaves the range check as the only way to a
fault. -/
theorem stepAnswersWithinTheRanges : Obligations.StepAnswersWithinTheRanges :=
  fun _ => ⟨step_next_of_valid, step_fault_of_not_valid⟩

end Sys2Proof.Machine
end

section
/-! The family 10_state.md: the parameter ranges by name, the rule by which a claim about a segment is proved, and the
statements of the micro-programs. -/

namespace Sys2Proof.Config.Valid

variable {c : Config} (h : c.Valid)
include h

/-! ### The parameter ranges (00_scope.md R9) -/

theorem qdepth_pos : 1 ≤ c.qdepth := h.1
theorem tickDiv_pos : 1 ≤ c.tickDiv := by obtain ⟨-, -, h, -⟩ := h; exact h
theorem sckHalf_pos : 1 ≤ c.sckHalf := by obtain ⟨-, -, -, h, -⟩ := h; exact h
theorem pollMs_pos : 1 ≤ c.pollMs := by obtain ⟨-, -, -, -, -, -, -, -, -, -, -, h, -⟩ := h; exact h
theorem timeoutMs_pos : 1 ≤ c.timeoutMs := by obtain ⟨-, -, -, -, -, -, -, -, -, -, -, -, h, -⟩ := h; exact h
theorem timeoutMs_lt : c.timeoutMs < 2 ^ 32 := by obtain ⟨-, -, -, -, -, -, -, -, -, -, -, -, -, h, -⟩ := h; exact h
theorem debounceN_pos : 1 ≤ c.debounceN := by obtain ⟨-, -, -, -, -, -, -, -, -, -, -, -, -, -, h, -⟩ := h; exact h
theorem debounceN_le : c.debounceN ≤ 255 := by obtain ⟨-, -, -, -, -, -, -, -, -, -, -, -, -, -, -, h, -⟩ := h; exact h

end Sys2Proof.Config.Valid

namespace Sys2Proof.Machine

/-! ### The rule of a segment -/

/-- What a statement at index `pc` leads to: `P` at the statement that is looked at next, or `Q` where the segment
stops. -/
def Flow.leads (P : Nat → State → Prop) (Q : State → Prop) (pc : Nat) : Flow → Prop
  | .go s => P (pc + 1) s
  | .skip n s => P (pc + 1 + n) s
  | .stop s => Q s

/-- The rule of a segment: when every statement leads from `P` to `P` at the next one, or to `Q` where it stops the
segment, a segment that begins with `P` ends with `Q`. -/
theorem runFrom_rule {P : Nat → State → Prop} {Q : State → Prop} {p : List Stmt}
    (hstmt : ∀ pc st s, p[pc]? = some st → P pc s → (doStmt pc s st).leads P Q pc)
    (hend : ∀ pc s, p.length ≤ pc → P pc s → Q s.endOp) (rest : List Stmt) :
    ∀ pc sk s, p.drop pc = rest → P (pc + sk) s → Q (runFrom pc sk rest s) := by
  induction rest with
  | nil =>
    intro pc sk s hr h
    have hlen : p.length ≤ pc := List.drop_eq_nil_iff.mp hr
    simpa using hend (pc + sk) s (by omega) h
  | cons st rest ih =>
    intro pc sk s hr h
    have hst : p[pc]? = some st := by rw [← List.head?_drop, hr, List.head?_cons]
    have hrest : p.drop (pc + 1) = rest := by rw [← List.tail_drop, hr, List.tail_cons]
    cases sk with
    | succ n => exact ih (pc + 1) n s hrest (by rwa [Nat.add_right_comm pc 1 n])
    | zero =>
      have hflow := hstmt pc st s hst h
      rw [runFrom_cons]
      revert hflow
      cases doStmt pc s st with
      | go s' => exact ih (pc + 1) 0 s' hrest
      | skip n s' => exact ih (pc + 1) n s' hrest
      | stop s' => exact id

/-- The rule for the segment that is due. -/
theorem runProgram_rule {P : Nat → State → Prop} {Q : State → Prop} {p : List Stmt} {s : State} {r : Resume}
    (hstmt : ∀ pc st s, p[pc]? = some st → P pc s → (doStmt pc s st).leads P Q pc)
    (hend : ∀ pc s, p.length ≤ pc → P pc s → Q s.endOp) (hk : s.k = some r) (h : P r.pc s) :
    Q (runProgram p s) := by
  rw [runProgram_at hk]
  exact runFrom_rule hstmt hend _ r.pc 0 s rfl h

/-- `wait_until` goes on, or suspends at the same statement until an edge ahead. -/
theorem waitUntil_leads {P : Nat → State → Prop} {Q : State → Prop} {w pc : Nat} {s : State}
    (hgo : P (pc + 1) s) (hwait : s.now < w → Q (s.suspend w pc)) : (waitUntil w pc s).leads P Q pc := by
  unfold waitUntil
  split
  · exact hgo
  · next h => exact hwait (Nat.lt_of_not_le h)

/-! ### Which statements an op's micro-program has -/

/-- A statement that the micro-program of `i` may have: only WAIT_IDLE polls, only RESET drives RST_N, `rem` is set to
a 16-bit COUNT, and the half period of FILL's loop is that of every other bit. -/
def Stmt.allowedIn (c : Config) (i : Instr) : Stmt → Prop
  | .pollInit => i = .waitidle
  | .sample => i = .waitidle
  | .pollWake => i = .waitidle
  | .setRstN _ => i = .reset
  | .setRem n => n ≤ 65535
  | .fillAgain _ half _ => half = c.sckHalf
  | _ => True

theorem closeStmts_allowed (c : Config) (i : Instr) : ∀ st ∈ closeStmts c, st.allowedIn c i := by
  simp [closeStmts, Stmt.allowedIn]

theorem closeIfLast_allowed (c : Config) (i : Instr) (last : Bool) : ∀ st ∈ closeIfLast c last, st.allowedIn c i := by
  cases last with
  | false => simp [closeIfLast]
  | true => exact closeStmts_allowed c i

theorem autoClose_allowed (c : Config) (i : Instr) : ∀ st ∈ autoClose c, st.allowedIn c i :=
  List.forall_mem_cons.mpr ⟨trivial, closeStmts_allowed c i⟩

theorem openStmts_allowed (c : Config) (i : Instr) (v : Bool) : ∀ st ∈ openStmts c v, st.allowedIn c i := by
  simp [openStmts, Stmt.allowedIn]

theorem openData_allowed (c : Config) (i : Instr) : ∀ st ∈ openData c, st.allowedIn c i :=
  List.forall_mem_cons.mpr ⟨trivial, openStmts_allowed c i true⟩

theorem shiftStmts_allowed (c : Config) (i : Instr) (b : Byte) : ∀ st ∈ shiftStmts c b, st.allowedIn c i := by
  simp [shiftStmts, bitStmts, Stmt.allowedIn]

theorem sendByteProgram_allowed (c : Config) (i : Instr) (last : Bool) (b : Byte) :
    ∀ st ∈ sendByteProgram c last b, st.allowedIn c i := by
  simp only [sendByteProgram, List.forall_mem_append]
  exact ⟨⟨openData_allowed c i, shiftStmts_allowed c i b⟩, closeIfLast_allowed c i last⟩

theorem fillProgram_allowed (c : Config) (i : Instr) (count : BitVec 16) (last : Bool) (color : Colour) :
    ∀ st ∈ fillProgram c count last color, st.allowedIn c i := by
  have hcount : (Stmt.setRem count.toNat).allowedIn c i := Nat.le_of_lt_succ count.isLt
  simp only [fillProgram, List.forall_mem_append, List.forall_mem_singleton]
  refine ⟨⟨⟨openData_allowed c i, hcount⟩, ?_⟩, closeIfLast_allowed c i last⟩
  split
  · simp
  · simp only [fillLoop, List.forall_mem_append, List.forall_mem_singleton]
    exact ⟨shiftStmts_allowed c i _, rfl⟩

theorem programOf_allowed (c : Config) (i : Instr) : ∀ st ∈ programOf c i, st.allowedIn c i := by
  cases i with
  | nop => simp [programOf, nopProgram]
  | cmd byte =>
    simp only [programOf, cmdProgram, List.forall_mem_append]
    exact ⟨⟨⟨autoClose_allowed c _, openStmts_allowed c _ _⟩, shiftStmts_allowed c _ _⟩, closeStmts_allowed c _⟩
  | data last byte => exact sendByteProgram_allowed c _ last byte
  | pix last left right => exact sendByteProgram_allowed c _ last _
  | fill count last color => exact fillProgram_allowed c _ count last color
  | reset | waitidle | delay ms =>
    simp only [programOf, resetProgram, waitidleProgram, delayProgram, List.forall_mem_append]
    exact ⟨autoClose_allowed c _, by simp [waitMs, Stmt.allowedIn]⟩

/-! ### What a micro-program takes for granted about the pins -/

/-- The pins of an op boundary: SCLK = 0 and RST_N = 1 (10_state.md R44, 43_reset_timer.md R205). -/
def Expect.boundary (e : Expect) : Bool := !e.sclk && e.rstN

/-- Where control does not pass to the next statement, what is known of the pins (`e` before the statement) agrees with
what is known at the place it goes to: behind the statements that are passed over, at the foot of FILL's loop, and at
the statements at which WAIT_IDLE may end. -/
def Stmt.pinsAgree (p : List Stmt) (pc : Nat) (e : Expect) : Stmt → Bool
  | .skipIfHigh n => expectAt p (pc + 1 + n) == { e with csN := some true }
  | .skipIfLow n => expectAt p (pc + 1 + n) == { e with csN := some false }
  | .fillAgain _ _ back => resumable p back && expectAt p back == { e with sclk := false }
  | .sample => e.boundary && p[pc + 1]? == some .pollWake
  | .pollWake => e.boundary
  | _ => true

/-- The same for the statements of `p` from index `pc` on, and the pins of an op boundary at its end. -/
def pinsAgreeFrom (p : List Stmt) (pc : Nat) (e : Expect) : List Stmt → Bool
  | [] => e.boundary
  | st :: rest => st.pinsAgree p pc e && pinsAgreeFrom p (pc + 1) (e.after st) rest

/-- The same for a whole micro-program. -/
def pinsAgree (p : List Stmt) : Bool := pinsAgreeFrom p 0 .start p

/-- What is known of the pins at a statement is computed from what is known at the one before. -/
theorem expectAt_succ {p : List Stmt} {pc : Nat} {st : Stmt} (h : p[pc]? = some st) :
    expectAt p (pc + 1) = (expectAt p pc).after st := by
  simp [expectAt, List.take_add_one, h]

theorem expectAt_of_length_le {p : List Stmt} {pc : Nat} (h : p.length ≤ pc) :
    expectAt p pc = expectAt p p.length := by
  simp [expectAt, List.take_of_length_le h]

theorem pinsAgreeFrom_sound {p : List Stmt} (rest : List Stmt) : ∀ pc, p.drop pc = rest →
    pinsAgreeFrom p pc (expectAt p pc) rest = true →
    (∀ n (st : Stmt), rest[n]? = some st → st.pinsAgree p (pc + n) (expectAt p (pc + n)) = true) ∧
    (expectAt p p.length).boundary = true := by
  induction rest with
  | nil =>
    intro pc hr h
    rw [← expectAt_of_length_le (List.drop_eq_nil_iff.mp hr)]
    exact ⟨by simp, h⟩
  | cons st rest ih =>
    intro pc hr h
    have hst : p[pc]? = some st := by rw [← List.head?_drop, hr, List.head?_cons]
    have hrest : p.drop (pc + 1) = rest := by rw [← List.tail_drop, hr, List.tail_cons]
    obtain ⟨hhead, htail⟩ := Bool.and_eq_true_iff.mp h
    rw [← expectAt_succ hst] at htail
    obtain ⟨hall, hend⟩ := ih (pc + 1) hrest htail
    refine ⟨fun n st' hn => ?_, hend⟩
    cases n with
    | zero => exact Option.some.inj hn ▸ hhead
    | succ n => simpa only [Nat.add_assoc, Nat.add_comm 1 n] using hall n st' hn

/-- `pinsAgree` read at each statement. -/
theorem pinsAgree_at {p : List Stmt} (h : pinsAgree p = true) {pc : Nat} {st : Stmt} (hst : p[pc]? = some st) :
    st.pinsAgree p pc (expectAt p pc) = true := by
  simpa using (pinsAgreeFrom_sound p 0 rfl h).1 pc st hst

/-- `pinsAgree` read at the end. -/
theorem pinsAgree_end {p : List Stmt} (h : pinsAgree p = true) {pc : Nat} (hpc : p.length ≤ pc) :
    (expectAt p pc).boundary = true := by
  rw [expectAt_of_length_le hpc]
  exact (pinsAgreeFrom_sound p 0 rfl h).2

theorem sendByteProgram_pinsAgree (c : Config) (last : Bool) (b : Byte) :
    pinsAgree (sendByteProgram c last b) = true := by
  cases last <;> rfl

theorem fillProgram_pinsAgree (c : Config) (count : BitVec 16) (last : Bool) (color : Colour) :
    pinsAgree (fillProgram c count last color) = true := by
  by_cases hz : count = 0
  · simp only [fillProgram, if_pos hz]
    cases last <;> rfl
  · simp only [fillProgram, if_neg hz]
    cases last <;> rfl

/-- Every op's micro-program: computed along its statements, of which only the operands are unknown. -/
theorem programOf_pinsAgree (c : Config) (i : Instr) : pinsAgree (programOf c i) = true := by
  cases i with
  | data last byte => exact sendByteProgram_pinsAgree c last _
  | pix last left right => exact sendByteProgram_pinsAgree c last _
  | fill count last color => exact fillProgram_pinsAgree c count last color
  | nop | cmd byte | reset | waitidle | delay ms => rfl

end Sys2Proof.Machine
end

section
/-! The family 10_state.md: the pins and the continuation that a segment leaves. -/

namespace Sys2Proof.Machine

/-! ### The pins and the continuation -/

/-- The pins are as known. -/
def Expect.Meets (e : Expect) (s : State) : Prop :=
  (∀ v, e.csN = some v → s.csN = v) ∧ s.sclk = e.sclk ∧ s.rstN = e.rstN

theorem Expect.Meets.boundary {e : Expect} {s : State} (h : e.Meets s) (hb : e.boundary = true) :
    s.sclk = false ∧ s.rstN = true := by
  obtain ⟨-, hsclk, hrst⟩ := h
  simpa [hsclk, hrst, Expect.boundary] using hb

/-- `on_track` of the invariant is being able to go on, with the pins as known. -/
theorem onTrack_iff {p : List Stmt} {pc : Nat} {s : State} :
    onTrack p pc s ↔ resumable p pc = true ∧ (expectAt p pc).Meets s := Iff.rfl

/-- What a segment of `p` leaves: the pins of an op boundary if the op is over, and otherwise a continuation ahead of
the edge, on track. -/
structure Settled (p : List Stmt) (t : State) : Prop where
  ended : t.k = none → t.sclk = false ∧ t.rstN = true
  waits : ∀ r, t.k = some r → t.now < r.wake ∧ onTrack p r.pc t

theorem settled_of_ended {p : List Stmt} {t : State} (hk : t.k = none) (h : t.sclk = false ∧ t.rstN = true) :
    Settled p t :=
  ⟨fun _ => h, fun r hr => by simp [hk] at hr⟩

theorem settled_suspend {p : List Stmt} {w pc : Nat} {s : State} (hw : s.now < w) (hr : resumable p pc = true)
    (h : (expectAt p pc).Meets s) : Settled p (s.suspend w pc) :=
  ⟨fun hk => by simp at hk, fun r hk => by
    obtain rfl : (⟨w, pc⟩ : Resume) = r := Option.some.inj hk
    exact ⟨hw, hr, h⟩⟩

/-- One pass of WAIT_IDLE's loop ends, or sleeps for at least one cycle. -/
theorem pollOnce_settled {p : List Stmt} {pc pc' : Nat} {s : State} (hv : s.cfg.Valid)
    (hb : (expectAt p pc).boundary = true) (h : (expectAt p pc).Meets s)
    (hr : resumable p pc' = true) (he : expectAt p pc' = expectAt p pc) : Settled p (pollOnce pc' s) := by
  unfold pollOnce
  split
  · exact settled_of_ended rfl (h.boundary hb)
  · have hsleep : 1 ≤ s.cfg.pollMs * s.cfg.tickDiv := Nat.mul_pos hv.pollMs_pos hv.tickDiv_pos
    exact settled_suspend (by simp; omega) hr (he ▸ h)

/-- What holds at each statement of a segment of `p`: the parameters are still those of the start, and the pins are as
known. -/
def Known (c : Config) (p : List Stmt) (pc : Nat) (s : State) : Prop := s.cfg = c ∧ (expectAt p pc).Meets s

theorem resumable_of_wait {p : List Stmt} {pc n : Nat} (h : p[pc]? = some (.wait n)) :
    resumable p (pc + 1) = true := by simp [resumable, h]

/-- Every statement leads from the pins known at it to those known at the next, or settles. -/
theorem doStmt_settles {c : Config} {i : Instr} {p : List Stmt} {pc : Nat} {st : Stmt} {s : State} (hv : c.Valid)
    (hp : pinsAgree p = true) (hallowed : st.allowedIn c i) (hst : p[pc]? = some st) (h : Known c p pc s) :
    (doStmt pc s st).leads (Known c p) (Settled p) pc := by
  have hagree := pinsAgree_at hp hst
  have hnext := expectAt_succ hst
  obtain ⟨rfl, hpins⟩ := h
  have hgo : ∀ s' : State, s'.cfg = s.cfg → ((expectAt p pc).after st).Meets s' → Known s.cfg p (pc + 1) s' :=
    fun s' hc hm => ⟨hc, hnext ▸ hm⟩
  have ⟨hcs, hsclk, hrst⟩ := hpins
  cases st with
  | skipIfHigh n =>
    simp only [Stmt.pinsAgree, beq_iff_eq] at hagree
    simp only [doStmt]
    split
    · next hhigh => exact ⟨rfl, by rw [hagree]; exact ⟨by simp [hhigh], hsclk, hrst⟩⟩
    · next hlow => exact hgo s rfl ⟨by simpa [Expect.after] using hlow, hsclk, hrst⟩
  | skipIfLow n =>
    simp only [Stmt.pinsAgree, beq_iff_eq] at hagree
    simp only [doStmt]
    split
    · next hhigh => exact hgo s rfl ⟨by simpa [Expect.after] using hhigh, hsclk, hrst⟩
    · next hlow => exact ⟨rfl, by rw [hagree]; exact ⟨by simpa using hlow, hsclk, hrst⟩⟩
  | wait n =>
    simp only [doStmt]
    split
    · exact hgo s rfl hpins
    · exact settled_suspend (by omega) (resumable_of_wait hst) (hnext ▸ hpins)
  | waitRise n | waitFall n =>
    exact waitUntil_leads (hgo s rfl hpins)
      fun hw => settled_suspend hw (by simp [resumable, hst]) hpins
  | select | deselect => exact hgo _ rfl ⟨by simp [Expect.after], hsclk, hrst⟩
  | bit v | sclkHigh | byteEnd => exact hgo _ rfl ⟨hcs, rfl, hrst⟩
  | setRstN v => exact hgo _ rfl ⟨hcs, hsclk, rfl⟩
  | setDc v | setRem n | pollInit => exact hgo _ rfl ⟨hcs, hsclk, hrst⟩
  | fillAgain v half back =>
    simp only [Stmt.pinsAgree, Bool.and_eq_true, beq_iff_eq] at hagree
    obtain ⟨hback, hexpect⟩ := hagree
    have hpos := hv.sckHalf_pos
    simp only [doStmt]
    split
    · exact hgo _ rfl ⟨hcs, hsclk, hrst⟩
    · refine settled_suspend ?_ hback (hexpect ▸ ⟨hcs, rfl, hrst⟩)
      have hlen : half = s.cfg.sckHalf := hallowed
      simp
      omega
  | sample =>
    simp only [Stmt.pinsAgree, Bool.and_eq_true, beq_iff_eq] at hagree
    obtain ⟨hb, hwake⟩ := hagree
    exact pollOnce_settled hv hb hpins (by simp [resumable, hwake]) hnext
  | pollWake =>
    simp only [Stmt.pinsAgree] at hagree
    simp only [doStmt, Flow.leads, pollAgain]
    split
    · exact settled_of_ended rfl (hpins.boundary hagree)
    · exact pollOnce_settled hv hagree hpins (by simp [resumable, hst]) rfl

/-- A segment of an op that is on track settles. -/
theorem runProgram_settled {i : Instr} {s : State} {r : Resume} (hv : s.cfg.Valid) (hk : s.k = some r)
    (h : onTrack (programOf s.cfg i) r.pc s) :
    Settled (programOf s.cfg i) (runProgram (programOf s.cfg i) s) := by
  have hp := programOf_pinsAgree s.cfg i
  obtain ⟨-, hpins⟩ := onTrack_iff.mp h
  refine runProgram_rule (P := Known s.cfg (programOf s.cfg i)) (fun pc st s' hst hs' => ?_)
    (fun pc s' hlen ⟨_, hpins'⟩ => ?_) hk ⟨rfl, hpins⟩
  · exact doStmt_settles hv hp (programOf_allowed _ i st (List.mem_of_getElem? hst)) hst hs'
  · exact settled_of_ended rfl (Expect.Meets.boundary (s := s') hpins' (pinsAgree_end hp hlen))

/-- A segment of CLOSE waits for the hold time at its first statement, or raises CS_N and ends (40_framer.md R141). -/
theorem runClose_eq {s : State} {w : Nat} (hk : s.k = some ⟨w, 0⟩) :
    runClose s =
      if afterEdge s.tSclkFall s.cfg.tCsh ≤ s.now then { s with csN := true, tCsRise := some s.now, k := none }
      else s.suspend (afterEdge s.tSclkFall s.cfg.tCsh) 0 := by
  rw [runClose, runProgram_at hk, closeProgram, closeStmts, List.drop_zero, runFrom_cons, doStmt, waitUntil]
  by_cases h : afterEdge s.tSclkFall s.cfg.tCsh ≤ s.now
  · simp only [if_pos h]
    rfl
  · simp only [if_neg h]

/-! ### The segment -/

/-- A segment that is due is the one the continuation names. -/
theorem exists_resume_of_due {s : State} (h : s.due = true) : ∃ r, s.k = some r := by
  cases hk : s.k with
  | none => simp [State.due, hk] at h
  | some r => exact ⟨r, rfl⟩

theorem wake_ahead_of_not_due {s : State} {r : Resume} (hk : s.k = some r) (h : s.due = false) : s.now < r.wake := by
  simpa [State.due, hk, ← Bool.not_eq_true, Nat.ble_eq] using h

/-- Everything the engine can do at an edge: nothing when no segment is due, and otherwise a segment of CLOSE, of the
op in `cur`, or of a word that is no op. -/
theorem segmentOf_cases (s : State) :
    ((s.eng = .idle ∨ s.due = false) ∧ segmentOf s = s) ∨
    ∃ r, s.k = some r ∧
      ((s.eng = .close ∧ segmentOf s = runClose s) ∨
       (∃ i, s.eng = .exec ∧ decode s.cur = some i ∧ segmentOf s = runProgram (programOf s.cfg i) s) ∨
       (s.eng = .exec ∧ decode s.cur = none ∧ segmentOf s = illegalOp s)) := by
  cases hd : s.due with
  | false => exact .inl ⟨.inr rfl, by unfold segmentOf; split <;> simp [hd]⟩
  | true =>
    obtain ⟨r, hk⟩ := exists_resume_of_due hd
    cases he : s.eng with
    | idle => exact .inl ⟨.inl rfl, by simp [segmentOf, he]⟩
    | close => exact .inr ⟨r, hk, .inl ⟨rfl, by simp [segmentOf, he, hd]⟩⟩
    | exec =>
      cases hdec : decode s.cur with
      | none => exact .inr ⟨r, hk, .inr (.inr ⟨rfl, rfl, by simp [segmentOf, he, hd, hdec]⟩)⟩
      | some i => exact .inr ⟨r, hk, .inr (.inl ⟨i, rfl, rfl, by simp [segmentOf, he, hd, hdec]⟩)⟩

theorem segmentOf_idle {s : State} (h : s.eng = .idle) : segmentOf s = s := by simp [segmentOf, h]

/-- Only an engine that is running can raise. -/
theorem segmentOf_kept_or_raised (s : State) :
    ErrorsKept s (segmentOf s) ∨ (s.eng ≠ .idle ∧ Raised s (segmentOf s)) := by
  by_cases h : s.eng = .idle
  · exact .inl (by rw [segmentOf_idle h]; exact .refl s)
  · exact (segmentOf_errors s).imp id fun hr => ⟨h, hr⟩

/-- An op that goes on after its segment has raised nothing. -/
theorem segmentOf_eng {s : State} {r : Resume} (h : (segmentOf s).k = some r) : (segmentOf s).eng = s.eng := by
  obtain hkept | hraised := segmentOf_errors s
  · exact hkept.eng
  · simp [hraised.k] at h

/-! ### The engine on track -/

theorem engineOnTrack_close {s : State} {pc : Nat} (he : s.eng = .close) :
    engineOnTrack s pc ↔ pc = 0 ∧ s.csN = false ∧ s.sclk = false ∧ s.rstN = true := by
  simp [engineOnTrack, he]

theorem engineOnTrack_op {s : State} {pc : Nat} {i : Instr} (he : s.eng = .exec) (hd : decode s.cur = some i) :
    engineOnTrack s pc ↔ onTrack (programOf s.cfg i) pc s := by
  simp [engineOnTrack, he, hd]

theorem engineOnTrack_illegal {s : State} {pc : Nat} (he : s.eng = .exec) (hd : decode s.cur = none) :
    engineOnTrack s pc ↔ pc = 0 ∧ s.sclk = false ∧ s.rstN = true := by
  simp [engineOnTrack, he, hd]

/-- Being on track is a matter of the engine, `cur`, the parameters and three pins. -/
theorem engineOnTrack_congr {s t : State} (pc : Nat) (he : t.eng = s.eng) (hcur : t.cur = s.cur) (hcfg : t.cfg = s.cfg)
    (hcs : t.csN = s.csN) (hsclk : t.sclk = s.sclk) (hrst : t.rstN = s.rstN) :
    engineOnTrack t pc ↔ engineOnTrack s pc := by
  simp only [engineOnTrack, onTrack, he, hcur, hcfg, hcs, hsclk, hrst]

/-- What the engine leaves at an edge: the pins of an op boundary if nothing runs any more, and otherwise a
continuation ahead of the edge, on track. -/
structure EngineSettled (t : State) : Prop where
  ended : t.k = none → t.sclk = false ∧ t.rstN = true
  waits : ∀ r, t.k = some r → t.now < r.wake ∧ engineOnTrack t r.pc

theorem runClose_settled {s : State} {r : Resume} (hk : s.k = some r) (he : s.eng = .close)
    (h : engineOnTrack s r.pc) : EngineSettled (runClose s) := by
  obtain ⟨w, pc⟩ := r
  obtain ⟨rfl, hcs, hsclk, hrst⟩ := (engineOnTrack_close he).mp h
  rw [runClose_eq hk]
  split
  · exact ⟨fun _ => ⟨hsclk, hrst⟩, fun r hr => by simp at hr⟩
  · next hahead =>
    refine ⟨fun hr => by simp at hr, fun r hr => ?_⟩
    obtain rfl : (⟨_, 0⟩ : Resume) = r := Option.some.inj hr
    exact ⟨Nat.lt_of_not_le hahead, (engineOnTrack_close he).mpr ⟨rfl, hcs, hsclk, hrst⟩⟩

/-- The segment of a block with the invariant leaves the engine settled. -/
theorem segmentOf_settled {s : State} (hv : s.cfg.Valid) (hi : Inv s) : EngineSettled (segmentOf s) := by
  obtain ⟨hidle, hseg⟩ | ⟨r, hk, hrun⟩ := segmentOf_cases s
  · rw [hseg]
    refine ⟨fun hk => hi.idle_pins (hi.idle_no_continuation.mpr hk), fun r hk => ⟨?_, hi.on_track r hk⟩⟩
    have hbusy : s.eng ≠ .idle := fun he => by simp [hi.idle_no_continuation.mp he] at hk
    exact wake_ahead_of_not_due hk (hidle.resolve_left hbusy)
  · have htrack := hi.on_track r hk
    obtain ⟨he, hseg⟩ | ⟨i, he, hd, hseg⟩ | ⟨he, hd, hseg⟩ := hrun
    · exact hseg ▸ runClose_settled hk he htrack
    · have hsettled := runProgram_settled hv hk ((engineOnTrack_op he hd).mp htrack)
      have hshell := segmentOf_shell s
      rw [← hseg] at hsettled
      refine ⟨hsettled.ended, fun r' hk' => ?_⟩
      obtain ⟨hwake, hon⟩ := hsettled.waits r' hk'
      rw [engineOnTrack_op ((segmentOf_eng hk').trans he) (hshell.cur ▸ hd), hshell.cfg]
      exact ⟨hwake, hon⟩
    · obtain ⟨-, hpins⟩ := (engineOnTrack_illegal he hd).mp htrack
      exact hseg ▸ ⟨fun _ => hpins, fun r hr => by simp [illegalOp] at hr⟩

end Sys2Proof.Machine
end

section
/-! The family 10_state.md: what an edge makes of the engine, the queue and the error registers, and the invariant. -/

namespace Sys2Proof.Machine

/-! ### The engine after the edge -/

theorem engineFree_iff (before after : State) :
    engineFree before after = true ↔ before.eng = .idle ∨ after.k = none := by
  simp [engineFree]

/-- At an edge at which the engine is not free its op goes on. -/
theorem finishEdge_of_not_free {inp : Input} {before after : State} (h : engineFree before after = false) :
    (finishEdge inp before after).eng = after.eng ∧ (finishEdge inp before after).cur = after.cur ∧
    (finishEdge inp before after).k = after.k := by
  simp [finishEdge_eng, finishEdge_cur, finishEdge_k, dispatchOp, h]

/-- CLOSE is started only with CS_N low (40_framer.md R130). -/
theorem csN_of_dispatchChoice_close {before after : State} {flush : Bool}
    (h : dispatchChoice before after flush = .close) : after.csN = false := by
  unfold dispatchChoice at h
  split at h
  · simp at h
  · split at h
    · split at h
      · simp at h
      · next hlow => simpa using hlow
    · split at h
      · split at h <;> simp at h
      · simp at h

/-- At an edge at which the engine is free it becomes idle, or starts CLOSE or a word at the next edge. -/
theorem finishEdge_of_free {inp : Input} {before after : State} (h : engineFree before after = true) :
    ((finishEdge inp before after).eng = .idle ∧ (finishEdge inp before after).k = none) ∨
    ((finishEdge inp before after).k = some ⟨after.now + 1, 0⟩ ∧
      ((finishEdge inp before after).eng = .exec ∨
        ((finishEdge inp before after).eng = .close ∧ after.csN = false))) := by
  rw [finishEdge_eng, finishEdge_k, h]
  cases hstart : dispatchChoice before after (flushAt before after inp.access) with
  | nothing => exact .inl ⟨rfl, rfl⟩
  | close => exact .inr ⟨rfl, .inr ⟨rfl, csN_of_dispatchChoice_close hstart⟩⟩
  | op w => exact .inr ⟨rfl, .inl rfl⟩

/-- The invariant's part about the engine. -/
structure EngineInv (s : State) : Prop where
  idle_no_continuation : s.eng = .idle ↔ s.k = none
  wake_ahead : ∀ r, s.k = some r → s.cycle < r.wake
  idle_pins : s.eng = .idle → s.sclk = false ∧ s.rstN = true
  on_track : ∀ r, s.k = some r → engineOnTrack s r.pc

theorem EngineInv.of_idle {s : State} (he : s.eng = .idle) (hk : s.k = none) (h : s.sclk = false ∧ s.rstN = true) :
    EngineInv s :=
  ⟨by simp [he, hk], by simp [hk], fun _ => h, by simp [hk]⟩

theorem EngineInv.of_running {s : State} {r : Resume} (hk : s.k = some r) (hw : s.cycle < r.wake)
    (ht : engineOnTrack s r.pc) : EngineInv s := by
  have he : s.eng ≠ .idle := fun h => by simp [engineOnTrack, h] at ht
  have hr : ∀ r', s.k = some r' → r' = r := fun r' h => Option.some.inj (h.symm.trans hk)
  exact ⟨by simp [he, hk], fun r' h => hr r' h ▸ hw, fun h => absurd h he, fun r' h => hr r' h ▸ ht⟩

/-- Every word is on track at the start of its micro-program, with the pins of an op boundary. -/
theorem engineOnTrack_start {s : State} (he : s.eng = .exec) (h : s.sclk = false ∧ s.rstN = true) :
    engineOnTrack s 0 := by
  cases hd : decode s.cur with
  | none => exact (engineOnTrack_illegal he hd).mpr ⟨rfl, h⟩
  | some i => exact (engineOnTrack_op he hd).mpr ⟨rfl, by simp [expectAt, Expect.start], h⟩

/-- An edge keeps the engine's part of the invariant. -/
theorem finishEdge_engineInv {inp : Input} {before after : State} (hidle : before.eng = .idle → after.k = none)
    (h : EngineSettled after) : EngineInv (finishEdge inp before after) := by
  cases hf : engineFree before after with
  | false =>
    obtain ⟨heng, hcur, hk⟩ := finishEdge_of_not_free (inp := inp) hf
    cases hka : after.k with
    | none => simp [engineFree, hka] at hf
    | some r =>
      obtain ⟨hwake, htrack⟩ := h.waits r hka
      refine EngineInv.of_running (hk.trans hka) (by simpa using hwake) ?_
      exact (engineOnTrack_congr r.pc heng hcur (by simp) (by simp) (by simp) (by simp)).mpr htrack
  | true =>
    have hpins : after.sclk = false ∧ after.rstN = true := h.ended (((engineFree_iff _ _).mp hf).elim hidle id)
    obtain ⟨heng, hk⟩ | ⟨hk, hstart⟩ := finishEdge_of_free (inp := inp) hf
    · exact EngineInv.of_idle heng hk (by simpa using hpins)
    · refine EngineInv.of_running hk (by simp) ?_
      obtain heng | ⟨heng, hcs⟩ := hstart
      · exact engineOnTrack_start heng (by simpa using hpins)
      · exact (engineOnTrack_close heng).mpr (by simpa [hcs] using hpins)

/-! ### The queue and the error registers after the edge -/

/-- `ERRCODE` names the error: 0 for none, and at most 3. -/
def ErrNamed (s : State) : Prop := (s.err = false ↔ s.errcode = 0#3) ∧ s.errcode.toNat ≤ 3

theorem ErrorKind.code_named (e : ErrorKind) : e.code ≠ 0#3 ∧ e.code.toNat ≤ 3 := by
  cases e <;> decide

theorem ErrNamed.of_kept {s t : State} (h : ErrorsKept s t) (hs : ErrNamed s) : ErrNamed t := by
  unfold ErrNamed
  rw [h.err, h.errcode]
  exact hs

/-- An error raised by the engine has its code, or leaves that of the error before. -/
theorem ErrNamed.of_raised {s t : State} (h : Raised s t) (hs : ErrNamed s) : ErrNamed t := by
  obtain ⟨hzero, hle⟩ := hs
  cases he : s.err with
  | false =>
    obtain ⟨e, -, hcode, -⟩ := h.first he
    obtain ⟨hne, hle'⟩ := e.code_named
    exact ⟨by simp [h.err, hcode, hne], hcode ▸ hle'⟩
  | true =>
    obtain ⟨hcode, -⟩ := h.later he
    have hne : s.errcode ≠ 0#3 := fun h0 => by simp [hzero.mpr h0] at he
    exact ⟨by simp [h.err, hcode, hne], hcode ▸ hle⟩

theorem ErrNamed.recordError {s : State} (e : ErrorKind) (info : Word) (hs : ErrNamed s) :
    ErrNamed (s.recordError e info) := by
  obtain ⟨hzero, hle⟩ := hs
  obtain ⟨hne, hle'⟩ := e.code_named
  cases he : s.err with
  | false => exact ⟨by simp [he, hne], by simpa [he] using hle'⟩
  | true =>
    have hne' : s.errcode ≠ 0#3 := fun h0 => by simp [hzero.mpr h0] at he
    exact ⟨by simp [he, hne'], by simpa [he] using hle⟩

theorem ErrNamed.raiseOverflow {before s : State} (a : Option Access) (hs : ErrNamed s) :
    ErrNamed (raiseOverflow before a s) := by
  unfold Machine.raiseOverflow
  split
  · exact hs.recordError _ _
  all_goals exact hs

theorem ErrNamed.hostWrite {s : State} (a : Option Access) (hs : ErrNamed s) : ErrNamed (hostWrite a s) := by
  unfold ErrNamed
  rw [hostWrite_err, hostWrite_errcode]
  cases clears 5 a with
  | false => simpa [ErrNamed] using hs
  | true => simp

theorem ErrNamed.segmentOf {s : State} (hs : ErrNamed s) : ErrNamed (segmentOf s) :=
  (segmentOf_errors s).elim (fun h => hs.of_kept h) (fun h => hs.of_raised h)

/-- The error registers stay named over an edge. -/
theorem finishEdge_errNamed {s : State} (inp : Input) (hs : ErrNamed s) :
    ErrNamed (finishEdge inp s (afterSegment inp.access s)) := by
  have h := ((hs.hostWrite inp.access).segmentOf).raiseOverflow (before := s) inp.access
  unfold ErrNamed
  rw [finishEdge_err, finishEdge_errcode]
  exact h

/-- A word is pushed only where there is room (20_memory.md R77). -/
theorem room_of_push {s : State} {a : Option Access} {w : Word} (h : offer s a = .push w) :
    s.q.length ≠ s.cfg.qdepth := by
  intro hfull
  unfold offer at h
  cases hw : writtenTo .op a with
  | none => simp [hw] at h
  | some v => cases he : s.err <;> simp [hw, he, hfull] at h

/-- The queue keeps its bound. -/
theorem nextQueue_length_le {s : State} (flush dispatched : Bool) (a : Option Access)
    (h : s.q.length ≤ s.cfg.qdepth) : (nextQueue s.q flush dispatched (offer s a)).length ≤ s.cfg.qdepth := by
  have hq : (if dispatched then s.q.tail else s.q).length ≤ s.q.length := by
    cases dispatched <;> simp
  unfold nextQueue
  split
  · simp
  · cases ho : offer s a with
    | push w =>
      have hroom := room_of_push ho
      simp
      omega
    | nothing | drop | overflow w => simpa using hq.trans h

/-- Nothing is offered to the queue while ERR = 1. -/
theorem offer_of_err {s : State} (h : s.err = true) (a : Option Access) : offer s a = .nothing ∨ offer s a = .drop := by
  unfold offer
  cases writtenTo .op a <;> simp [h]

/-- A raise of the engine flushes (60_exceptions.md R255). -/
theorem flushAt_of_raised {before after : State} (a : Option Access) (hb : before.eng ≠ .idle) (ha : after.eng = .idle) :
    flushAt before after a = true := by
  simp [flushAt, engineRaised, hb, ha]

/-- With no flush at the edge, ERR is 1 after it only when it was 1 before. -/
theorem err_before_of_no_flush {s : State} {inp : Input}
    (hf : flushAt s (afterSegment inp.access s) inp.access = false)
    (h : (finishEdge inp s (afterSegment inp.access s)).err = true) : s.err = true := by
  have hover : ∀ w, offer s inp.access ≠ .overflow w := fun w hw => by simp [flushAt, hw] at hf
  have hsame : raiseOverflow s inp.access (afterSegment inp.access s) = afterSegment inp.access s := by
    unfold raiseOverflow
    split
    · next w hw => exact absurd hw (hover w)
    all_goals rfl
  rw [finishEdge_err, hsame] at h
  obtain hkept | ⟨hb, hraised⟩ := segmentOf_kept_or_raised (hostWrite inp.access s)
  · rw [afterSegment, hkept.err, hostWrite_err] at h
    exact (Bool.and_eq_true_iff.mp h).1
  · have hflush : flushAt s (afterSegment inp.access s) inp.access = true :=
      flushAt_of_raised inp.access (by simpa using hb) hraised.eng
    simp [hflush] at hf

/-- While ERR = 1 the queue is empty. -/
theorem finishEdge_queue_empty {s : State} {inp : Input} (hq : s.err = true → s.q = [])
    (h : (finishEdge inp s (afterSegment inp.access s)).err = true) :
    (finishEdge inp s (afterSegment inp.access s)).q = [] := by
  rw [finishEdge_q]
  cases hf : flushAt s (afterSegment inp.access s) inp.access with
  | true => rfl
  | false =>
    have herr := err_before_of_no_flush hf h
    obtain ho | ho := offer_of_err herr inp.access <;> simp [nextQueue, ho, hq herr]

/-! ### The invariant -/

theorem Inv.errNamed {s : State} (h : Inv s) : ErrNamed s := ⟨h.errcode_zero, h.errcode_named⟩

/-- The host's write keeps the invariant: it clears ERR only together with ERRCODE. -/
theorem Inv.hostWrite {s : State} (h : Inv s) (a : Option Access) : Inv (hostWrite a s) := by
  obtain ⟨hzero, hle⟩ := h.errNamed.hostWrite a
  refine ⟨by simpa using h.queue_bound, fun he => ?_, hzero, hle, by simpa using h.idle_no_continuation,
    by simpa using h.wake_ahead, by simpa using h.idle_pins, fun r hr => ?_⟩
  · rw [hostWrite_err] at he
    simpa using h.queue_empty_on_err (Bool.and_eq_true_iff.mp he).1
  · refine (engineOnTrack_congr r.pc ?_ ?_ ?_ ?_ ?_ ?_).mpr (h.on_track r (by simpa using hr)) <;> simp

/-- The reset state has the invariant for every set of parameters. -/
theorem inv_of_reset {t : State} (hq : t.q = []) (herr : t.err = false) (hcode : t.errcode = 0#3) (heng : t.eng = .idle)
    (hk : t.k = none) (hpins : t.sclk = false ∧ t.rstN = true) : Inv t := by
  obtain ⟨h1, h2, h3, h4⟩ := EngineInv.of_idle heng hk hpins
  exact ⟨by simp [hq], fun _ => hq, by simp [herr, hcode], by simp [hcode], h1, h2, h3, h4⟩

theorem blockReset_inv (s : State) : Inv s.blockReset := inv_of_reset rfl rfl rfl rfl rfl ⟨rfl, rfl⟩

/-- An edge keeps the invariant. -/
theorem finishEdge_inv {s : State} (hv : s.cfg.Valid) (h : Inv s) (inp : Input) :
    Inv (finishEdge inp s (afterSegment inp.access s)) := by
  have hcfg : (afterSegment inp.access s).cfg = s.cfg := by simp [afterSegment, (segmentOf_shell _).cfg]
  have hsettled : EngineSettled (afterSegment inp.access s) :=
    segmentOf_settled (by simpa using hv) (h.hostWrite inp.access)
  have hidle : s.eng = .idle → (afterSegment inp.access s).k = none := fun he => by
    rw [afterSegment, segmentOf_idle (by simpa using he), hostWrite_k]
    exact h.idle_no_continuation.mp he
  obtain ⟨h1, h2, h3, h4⟩ := finishEdge_engineInv (inp := inp) hidle hsettled
  obtain ⟨hzero, hle⟩ := finishEdge_errNamed inp h.errNamed
  refine ⟨?_, finishEdge_queue_empty h.queue_empty_on_err, hzero, hle, h1, h2, h3, h4⟩
  rw [finishEdge_q, finishEdge_cfg, hcfg]
  exact nextQueue_length_le _ _ _ h.queue_bound

/-- A step that answers a state is a block reset or an edge of a block whose parameters are in range. -/
theorem step_next_cases {s t : State} (h : step s = .next t) :
    s.cfg.Valid ∧ ((s.input.rst = true ∧ t = s.blockReset) ∨
      (s.input.rst = false ∧ t = finishEdge s.input s (afterSegment s.input.access s))) := by
  obtain ⟨-, hstep⟩ | ⟨hv, hr, hstep⟩ | ⟨hv, hr, hstep⟩ := step_cases s <;> rw [hstep] at h
  · simp at h
  · exact ⟨hv, .inl ⟨hr, (Host.Outcome.next.inj h).symm⟩⟩
  · exact ⟨hv, .inr ⟨hr, (Host.Outcome.next.inj h).symm⟩⟩

/-- Settles O30: block reset gives a state with the invariant, and at an edge the host's write, the segment and the
dispatch rule each keep it. -/
theorem stepKeepsTheInvariant : Obligations.StepKeepsTheInvariant := by
  intro s t hinv hstep
  obtain ⟨hv, ⟨-, rfl⟩ | ⟨-, rfl⟩⟩ := step_next_cases hstep
  · exact blockReset_inv s
  · exact finishEdge_inv hv hinv s.input

end Sys2Proof.Machine
end

section
/-! The family 10_state.md: the counters, and which segments write POLLS, the counters of WAIT_IDLE and RST_N. -/

namespace Sys2Proof.Machine

/-! ### `rem`, the counters and RST_N over a segment -/

@[simp] theorem pollOnce_rem (pc : Nat) (s : State) : (pollOnce pc s).rem = s.rem := by
  unfold pollOnce; split <;> rfl
@[simp] theorem pollOnce_rstN (pc : Nat) (s : State) : (pollOnce pc s).rstN = s.rstN := by
  unfold pollOnce; split <;> rfl
@[simp] theorem pollAgain_rem (pc : Nat) (s : State) : (pollAgain pc s).rem = s.rem := by
  unfold pollAgain; split <;> simp
@[simp] theorem pollAgain_rstN (pc : Nat) (s : State) : (pollAgain pc s).rstN = s.rstN := by
  unfold pollAgain; split <;> simp

/-- `wait_until` leaves the state or suspends it. -/
theorem waitUntil_keeps {P : State → Prop} {w pc : Nat} {s : State} (h : P s) (hs : P (s.suspend w pc)) :
    P (waitUntil w pc s).state := by
  obtain h' | h' := waitUntil_state w pc s <;> rw [h'] <;> assumption

/-- `rem` keeps its range: it is set to a 16-bit COUNT and counts down. -/
theorem doStmt_rem_le {c : Config} {i : Instr} {st : Stmt} (hst : st.allowedIn c i) (pc : Nat) {s : State}
    (h : s.rem ≤ 65535) : (doStmt pc s st).state.rem ≤ 65535 := by
  cases st with
  | setRem n => exact hst
  | fillAgain v half back =>
    simp only [doStmt]
    split
    · exact Nat.zero_le _
    · exact (Nat.sub_le _ _).trans h
  | waitRise n | waitFall n => exact waitUntil_keeps (P := fun t => t.rem ≤ 65535) h h
  | skipIfHigh n | skipIfLow n | wait n => simp only [doStmt]; split <;> exact h
  | sample => simpa [doStmt] using h
  | pollWake => simpa [doStmt] using h
  | _ => exact h

theorem WaitKept.refl (s : State) : WaitKept s s := ⟨rfl, rfl, rfl⟩

theorem WaitKept.trans {s t u : State} (h : WaitKept s t) (h' : WaitKept t u) : WaitKept s u :=
  ⟨h'.polls.trans h.polls, h'.elapsed.trans h.elapsed, h'.idleCnt.trans h.idleCnt⟩

/-- Only WAIT_IDLE writes POLLS and its counters. -/
theorem doStmt_waitKept {c : Config} {i : Instr} {st : Stmt} (hi : i ≠ .waitidle) (hst : st.allowedIn c i) (pc : Nat)
    (s : State) : WaitKept s (doStmt pc s st).state := by
  cases st with
  | pollInit | sample | pollWake => exact absurd hst hi
  | waitRise n | waitFall n => exact waitUntil_keeps (P := WaitKept s) (.refl s) ⟨rfl, rfl, rfl⟩
  | skipIfHigh n | skipIfLow n | wait n | fillAgain v half back =>
    simp only [doStmt]; split <;> exact ⟨rfl, rfl, rfl⟩
  | _ => exact ⟨rfl, rfl, rfl⟩

/-- Only RESET writes RST_N. -/
theorem doStmt_rstN {c : Config} {i : Instr} {st : Stmt} (hi : i ≠ .reset) (hst : st.allowedIn c i) (pc : Nat)
    (s : State) : (doStmt pc s st).state.rstN = s.rstN := by
  cases st with
  | setRstN v => exact absurd hst hi
  | waitRise n | waitFall n => exact waitUntil_keeps (P := fun t => t.rstN = s.rstN) rfl rfl
  | skipIfHigh n | skipIfLow n | wait n | fillAgain v half back => simp only [doStmt]; split <;> rfl
  | sample => exact pollOnce_rstN _ s
  | pollWake => exact pollAgain_rstN _ s
  | _ => rfl

/-- What the statements of the ops in `ops` keep, and the end of an op and a raise too, is kept by the segment of an
edge at which one of these ops runs, or none; CLOSE has statements that every op may have. -/
theorem segmentOf_keeps {P : State → Prop} {s : State} (ops : Instr → Prop) (hnop : ops .nop)
    (hrun : ∀ i, s.eng = .exec → decode s.cur = some i → ops i)
    (hstmt : ∀ i st, ops i → st.allowedIn s.cfg i → ∀ pc s', P s' → P (doStmt pc s' st).state)
    (hend : ∀ s', P s' → P s'.endOp) (hill : P s → P (illegalOp s)) (h : P s) : P (segmentOf s) := by
  obtain ⟨-, hseg⟩ | ⟨r, -, ⟨-, hseg⟩ | ⟨i, he, hd, hseg⟩ | ⟨-, -, hseg⟩⟩ := segmentOf_cases s <;> rw [hseg]
  · exact h
  · exact runProgram_keeps _ (fun st hst => hstmt .nop st hnop (closeStmts_allowed _ _ st hst)) hend s h
  · exact runProgram_keeps _ (fun st hst => hstmt i st (hrun i he hd) (programOf_allowed _ _ st hst)) hend s h
  · exact hill h

/-- A segment of anything but WAIT_IDLE leaves POLLS and the counters of WAIT_IDLE. -/
theorem segmentOf_waitKept {s : State} (h : ¬ (s.eng = .exec ∧ decode s.cur = some .waitidle)) :
    WaitKept s (segmentOf s) :=
  segmentOf_keeps (P := WaitKept s) (· ≠ .waitidle) (by simp) (fun _ he hd hi => h ⟨he, hi ▸ hd⟩)
    (fun _ _ hi hst pc s' hs => hs.trans (doStmt_waitKept hi hst pc s')) (fun _ hs => hs.trans ⟨rfl, rfl, rfl⟩)
    (fun hs => hs.trans ⟨rfl, rfl, rfl⟩) (WaitKept.refl s)

/-- A segment of anything but RESET leaves RST_N. -/
theorem segmentOf_rstN {s : State} (h : ¬ (s.eng = .exec ∧ decode s.cur = some .reset)) :
    (segmentOf s).rstN = s.rstN :=
  segmentOf_keeps (P := fun t => t.rstN = s.rstN) (· ≠ .reset) (by simp) (fun _ he hd hi => h ⟨he, hi ▸ hd⟩)
    (fun _ _ hi hst pc s' hs => (doStmt_rstN hi hst pc s').trans hs) (fun _ hs => hs) (fun hs => hs) rfl

/-- A segment keeps the range of `rem`. -/
theorem segmentOf_rem_le {s : State} (h : s.rem ≤ 65535) : (segmentOf s).rem ≤ 65535 :=
  segmentOf_keeps (P := fun t => t.rem ≤ 65535) (fun _ => True) trivial (fun _ _ _ => trivial)
    (fun _ _ _ hst pc _ hs => doStmt_rem_le hst pc hs) (fun _ hs => hs) (fun hs => hs) h

/-! ### A WAIT_IDLE that sleeps -/

/-- The counters of a sleeping WAIT_IDLE: neither its debounce nor its bound is complete, and it has taken one sample
more than the intervals it has slept. -/
def Asleep (s : State) : Prop :=
  s.idleCnt < s.cfg.debounceN ∧ s.elapsed < s.cfg.timeoutMs ∧ s.polls.toNat * s.cfg.pollMs = s.elapsed + s.cfg.pollMs

/-- The counters a segment of WAIT_IDLE leaves. -/
def WaitSettled (t : State) : Prop := t.idleCnt ≤ 255 ∧ ∀ w, t.k = some ⟨w, pollWakeIndex⟩ → Asleep t

/-- POLLS counts the samples of a wait within its bound without wrapping (10_state.md R39). -/
theorem polls_no_wrap {s : State} (hv : s.cfg.Valid) (he : s.elapsed < s.cfg.timeoutMs)
    (hp : s.polls.toNat * s.cfg.pollMs = s.elapsed) : (s.polls + 1#32).toNat = s.polls.toNat + 1 := by
  have hle : s.polls.toNat ≤ s.elapsed := hp ▸ Nat.le_mul_of_pos_right _ hv.pollMs_pos
  have htimeout := hv.timeoutMs_lt
  rw [BitVec.toNat_add, BitVec.toNat_ofNat, Nat.mod_eq_of_lt (by omega)]

/-- One pass of WAIT_IDLE's loop, taken with as many samples as intervals slept, debounces or goes to sleep. -/
theorem pollOnce_waitSettled {s : State} (pc : Nat) (hv : s.cfg.Valid) (hidle : s.idleCnt < s.cfg.debounceN)
    (he : s.elapsed < s.cfg.timeoutMs) (hp : s.polls.toNat * s.cfg.pollMs = s.elapsed) :
    WaitSettled (pollOnce pc s) := by
  have hwrap := polls_no_wrap hv he hp
  have hdeb := hv.debounceN_le
  have hcount : s.sampled.idleCnt ≤ 255 := by
    rw [State.sampled_idleCnt]
    split <;> omega
  unfold pollOnce
  split
  · exact ⟨hcount, fun w hw => by simp at hw⟩
  · next hmore =>
    refine ⟨hcount, fun _ _ => ⟨Nat.lt_of_not_le hmore, he, ?_⟩⟩
    simp only [State.suspend_polls, State.suspend_cfg, State.suspend_elapsed, State.sampled_polls, State.sampled_cfg,
      State.sampled_elapsed]
    rw [hwrap, Nat.succ_mul, hp]

/-- What follows a sleep raises TIMEOUT or samples again. -/
theorem pollAgain_waitSettled {s : State} (pc : Nat) (hv : s.cfg.Valid) (hidle : s.idleCnt ≤ 255) (h : Asleep s) :
    WaitSettled (pollAgain pc s) := by
  obtain ⟨hdeb, -, hp⟩ := h
  unfold pollAgain
  split
  · exact ⟨hidle, fun w hw => by simp at hw⟩
  · next hmore => exact pollOnce_waitSettled pc hv hdeb (Nat.lt_of_not_le hmore) hp

/-- The statements of WAIT_IDLE's micro-program by index. -/
theorem waitidleProgram_at {c : Config} {pc : Nat} {st : Stmt} (h : (waitidleProgram c)[pc]? = some st) :
    (pc = 0 ∧ st = .skipIfHigh 2) ∨ (pc = 1 ∧ st = .waitFall c.tCsh) ∨ (pc = 2 ∧ st = .deselect) ∨
    (pc = 3 ∧ st = .pollInit) ∨ (pc = 4 ∧ st = .sample) ∨ (pc = pollWakeIndex ∧ st = .pollWake) := by
  match pc with
  | 0 | 1 | 2 | 3 | 4 | 5 => simpa [waitidleProgram, autoClose, closeStmts, pollWakeIndex, eq_comm] using h
  | n + 6 => simp [waitidleProgram, autoClose, closeStmts] at h

/-- What holds at each statement of a segment of WAIT_IDLE: the counters are 0 at its first sample, and those of a
sleeping wait where it wakes up. -/
def WaitKnown (c : Config) (pc : Nat) (s : State) : Prop :=
  s.cfg = c ∧ s.idleCnt ≤ 255 ∧ (pc = 4 → s.idleCnt = 0 ∧ s.elapsed = 0 ∧ s.polls = 0#32) ∧
    (pc = pollWakeIndex → Asleep s)

/-- Every statement of WAIT_IDLE leads from the counters known at it to those known at the next, or settles. -/
theorem doStmt_waitSettles {c : Config} (hv : c.Valid) {pc : Nat} {st : Stmt} {s : State}
    (hst : (waitidleProgram c)[pc]? = some st) (h : WaitKnown c pc s) :
    (doStmt pc s st).leads (WaitKnown c) WaitSettled pc := by
  obtain ⟨rfl, hidle, hfirst, hasleep⟩ := h
  obtain ⟨rfl, rfl⟩ | ⟨rfl, rfl⟩ | ⟨rfl, rfl⟩ | ⟨rfl, rfl⟩ | ⟨rfl, rfl⟩ | ⟨rfl, rfl⟩ := waitidleProgram_at hst
  · simp only [doStmt]
    split <;> exact ⟨rfl, hidle, by simp, by simp [pollWakeIndex]⟩
  · exact waitUntil_leads ⟨rfl, hidle, by simp, by simp [pollWakeIndex]⟩
      fun _ => ⟨hidle, fun w hw => by simp [pollWakeIndex] at hw⟩
  · exact ⟨rfl, hidle, by simp, by simp [pollWakeIndex]⟩
  · exact ⟨rfl, Nat.zero_le _, fun _ => ⟨rfl, rfl, rfl⟩, by simp [pollWakeIndex]⟩
  · obtain ⟨hcount, helapsed, hpolls⟩ := hfirst rfl
    exact pollOnce_waitSettled _ hv (hcount ▸ hv.debounceN_pos) (helapsed ▸ hv.timeoutMs_pos)
      (by simp [hpolls, helapsed])
  · exact pollAgain_waitSettled _ hv hidle (hasleep rfl)

/-- A segment of WAIT_IDLE that is on track leaves the counters settled. -/
theorem runProgram_waitSettled {s : State} {r : Resume} (hv : s.cfg.Valid) (hk : s.k = some r)
    (hr : resumable (waitidleProgram s.cfg) r.pc = true) (hidle : s.idleCnt ≤ 255)
    (hasleep : r.pc = pollWakeIndex → Asleep s) : WaitSettled (runProgram (waitidleProgram s.cfg) s) := by
  refine runProgram_rule (P := WaitKnown s.cfg) (fun _ _ _ hst h => doStmt_waitSettles hv hst h)
    (fun _ _ _ ⟨_, hidle', _⟩ => ⟨hidle', fun w hw => by simp at hw⟩) hk ⟨rfl, hidle, fun h4 => ?_, hasleep⟩
  rw [h4] at hr
  simp [resumable, waitidleProgram, autoClose, closeStmts] at hr

/-! ### The bounds of the counters -/

/-- The bounds speak of these fields alone. -/
theorem CounterInv.congr {s t : State} (h : CounterInv s) (hrem : t.rem = s.rem) (hidle : t.idleCnt = s.idleCnt)
    (helapsed : t.elapsed = s.elapsed) (hpolls : t.polls = s.polls) (hcfg : t.cfg = s.cfg)
    (hsame : ∀ w, t.k = some ⟨w, pollWakeIndex⟩ → t.eng = s.eng ∧ t.cur = s.cur ∧ t.k = s.k) : CounterInv t := by
  obtain ⟨h1, h2, h3⟩ := h
  refine ⟨hrem ▸ h1, hidle ▸ h2, fun w he hd hk => ?_⟩
  obtain ⟨heng, hcur, hk'⟩ := hsame w hk
  rw [hidle, hcfg, helapsed, hpolls]
  exact h3 w (heng ▸ he) (hcur ▸ hd) (hk' ▸ hk)

/-- The segment of a block with the invariant keeps the bounds. -/
theorem segmentOf_counterInv {s : State} (hv : s.cfg.Valid) (hi : Inv s) (h : CounterInv s) :
    CounterInv (segmentOf s) := by
  have hrem := segmentOf_rem_le h.rem_bound
  have hshell := segmentOf_shell s
  by_cases hwait : s.eng = .exec ∧ decode s.cur = some .waitidle
  · obtain ⟨he, hd⟩ := hwait
    obtain ⟨-, hseg⟩ | ⟨⟨w, pc⟩, hk, hrun⟩ := segmentOf_cases s
    · rwa [hseg]
    · have hseg : segmentOf s = runProgram (waitidleProgram s.cfg) s := by
        obtain ⟨hc, -⟩ | ⟨i, -, hd', hseg⟩ | ⟨-, hd', -⟩ := hrun
        · simp [hc] at he
        · obtain rfl : i = .waitidle := Option.some.inj (hd'.symm.trans hd)
          exact hseg
        · simp [hd'] at hd
      obtain ⟨hresumable, -⟩ := (engineOnTrack_op he hd).mp (hi.on_track _ hk)
      obtain ⟨hidle, hasleep⟩ := runProgram_waitSettled hv hk hresumable h.idle_bound
        fun (hpc : pc = pollWakeIndex) => h.sleeping w he hd (hpc ▸ hk)
      rw [← hseg] at hidle hasleep
      exact ⟨hrem, hidle, fun w' _ _ hk' => hasleep w' hk'⟩
  · have hkept := segmentOf_waitKept hwait
    refine ⟨hrem, hkept.idleCnt ▸ h.idle_bound, fun w he hd hk => absurd ⟨?_, ?_⟩ hwait⟩
    · exact (segmentOf_eng hk).symm.trans he
    · exact hshell.cur ▸ hd

theorem CounterInv.hostWrite {s : State} (h : CounterInv s) (a : Option Access) : CounterInv (hostWrite a s) := by
  refine h.congr ?_ ?_ ?_ ?_ ?_ fun _ _ => ⟨?_, ?_, ?_⟩ <;> simp

/-- The rest of the edge keeps the bounds: what is dispatched begins at its first statement. -/
theorem finishEdge_counterInv {inp : Input} {before after : State} (h : CounterInv after) :
    CounterInv (finishEdge inp before after) := by
  refine h.congr (by simp) (by simp) (by simp) (by simp) (by simp) fun w hw => ?_
  cases hf : engineFree before after with
  | false => exact finishEdge_of_not_free hf
  | true => obtain ⟨-, hk⟩ | ⟨hk, -⟩ := finishEdge_of_free (inp := inp) hf <;> simp [hk, pollWakeIndex] at hw

theorem counterInv_of_zero {t : State} (hrem : t.rem = 0) (hidle : t.idleCnt = 0) (hk : t.k = none) : CounterInv t :=
  ⟨by omega, by omega, fun w _ _ h => by simp [hk] at h⟩

/-- Settles O33: block reset clears the counters, and at an edge the host's write, the segment and the dispatch rule
each keep their bounds. -/
theorem stepKeepsTheCounters : Obligations.StepKeepsTheCounters := by
  intro s t hinv hcnt hstep
  obtain ⟨hv, ⟨-, rfl⟩ | ⟨-, rfl⟩⟩ := step_next_cases hstep
  · exact counterInv_of_zero rfl rfl rfl
  · have hvalid : (hostWrite s.input.access s).cfg.Valid := by rwa [hostWrite_cfg]
    exact finishEdge_counterInv (segmentOf_counterInv hvalid (hinv.hostWrite _) (hcnt.hostWrite _))

/-- Settles O31: in the reset state nothing runs, nothing is queued and no error stands. -/
theorem resetHasTheInvariants : Obligations.ResetHasTheInvariants :=
  ⟨inv_of_reset rfl rfl rfl rfl rfl ⟨rfl, rfl⟩, counterInv_of_zero rfl rfl rfl⟩

end Sys2Proof.Machine
end

section
/-! The family 10_state.md: the registers computed from the state, the synchronizer, reset, and who writes ERRINFO,
POLLS and RST_N. -/

namespace Sys2Proof.Machine

/-! ### STATUS and PINS -/

/-- A bit of a word from its number. -/
theorem getLsbD_of_toNat {w : Word} {i : Nat} {b : Bool} (h : w.toNat / 2 ^ i % 2 = b.toNat) : w.getLsbD i = b := by
  rw [bit_eq, h]
  cases b <;> rfl

/-- A field of a word from its number. -/
theorem extractLsb'_of_toNat {w : Word} {start len : Nat} {v : BitVec len}
    (h : w.toNat / 2 ^ start % 2 ^ len = v.toNat) : w.extractLsb' start len = v :=
  BitVec.eq_of_toNat_eq ((field_toNat w start len).trans h)

/-- STATUS as a number (10_state.md R36). -/
theorem statusValue_toNat {s : State} (h : s.q.length ≤ 255) :
    s.statusValue.toNat = 65536 * s.q.length + 256 * s.errcode.toNat + 32 * s.err.toNat + 16 * s.done.toNat +
      8 * (s.q.length == s.cfg.qdepth).toNat + 4 * (!s.csN).toNat + 2 * (s.eng != .idle).toNat + s.isIdle.toNat := by
  simp only [State.statusValue, append_toNat, bit1_toNat, BitVec.toNat_ofNat]
  omega

/-- PINS as a number (10_state.md R40). -/
theorem pinsValue_toNat (s : State) :
    s.pinsValue.toNat = 64 * s.irq.toNat + 32 * s.bsync2.toNat + 16 * s.mosi.toNat + 8 * s.sclk.toNat +
      4 * s.rstN.toNat + 2 * s.dc.toNat + s.csN.toNat := by
  have h6 := s.irq.toNat_le
  have h5 := s.bsync2.toNat_le
  have h4 := s.mosi.toNat_le
  have h3 := s.sclk.toNat_le
  have h2 := s.rstN.toNat_le
  have h1 := s.dc.toNat_le
  have h0 := s.csN.toNat_le
  simp only [State.pinsValue, BitVec.toNat_setWidth, append_toNat, bit1_toNat]
  omega

/-- Settles O13: each field of STATUS is read off its number. -/
theorem statusShowsItsFields : Obligations.StatusShowsItsFields := by
  intro s hlen v
  have hv : v.toNat = _ := statusValue_toNat hlen
  have hcode := s.errcode.isLt
  have h5 := s.err.toNat_le
  have h4 := s.done.toNat_le
  have h3 := (s.q.length == s.cfg.qdepth).toNat_le
  have h2 := (!s.csN).toNat_le
  have h1 := (s.eng != .idle).toNat_le
  have h0 := s.isIdle.toNat_le
  have hidle : v.getLsbD 0 = s.isIdle := getLsbD_of_toNat (by omega)
  have hactive : v.getLsbD 1 = (s.eng != .idle) := getLsbD_of_toNat (by omega)
  have hopen : v.getLsbD 2 = !s.csN := getLsbD_of_toNat (by omega)
  have hfull : v.getLsbD 3 = (s.q.length == s.cfg.qdepth) := getLsbD_of_toNat (by omega)
  refine ⟨rfl, by rw [hidle]; simp [State.isIdle], by rw [hactive]; simp, by rw [hopen]; simp, by rw [hfull]; simp,
    getLsbD_of_toNat (by omega), getLsbD_of_toNat (by omega), extractLsb'_of_toNat ?_, extractLsb'_of_toNat ?_,
    extractLsb'_of_toNat ?_, ?_, extractLsb'_of_toNat ?_⟩
  · simp; omega
  · omega
  · simp; omega
  · rw [field_toNat]; omega
  · simp; omega

/-- Settles O14: each bit of PINS is read off its number, and a write at its offset is refused. -/
theorem pinsRegisterShowsThePins : Obligations.PinsRegisterShowsThePins := by
  refine ⟨by decide, ?_⟩
  intro s v
  have hv : v.toNat = _ := pinsValue_toNat s
  have h6 := s.irq.toNat_le
  have h5 := s.bsync2.toNat_le
  have h4 := s.mosi.toNat_le
  have h3 := s.sclk.toNat_le
  have h2 := s.rstN.toNat_le
  have h1 := s.dc.toNat_le
  have h0 := s.csN.toNat_le
  have hirq : v.getLsbD 6 = s.irq := getLsbD_of_toNat (by omega)
  refine ⟨rfl, fun _ => rfl, getLsbD_of_toNat (by omega), getLsbD_of_toNat (by omega), getLsbD_of_toNat (by omega),
    getLsbD_of_toNat (by omega), getLsbD_of_toNat (by omega), getLsbD_of_toNat (by omega),
    by rw [hirq]; simp [State.irq], extractLsb'_of_toNat ?_⟩
  simp
  omega

/-! ### The synchronizer -/

/-- At every edge without block reset the synchronizer takes the level of the cycle and shifts (10_state.md R46). -/
theorem step_sync {s t : State} (hr : s.input.rst = false) (h : step s = .next t) :
    t.bsync1 = s.input.busy ∧ t.bsync2 = s.bsync1 := by
  obtain ⟨-, ⟨hrst, -⟩ | ⟨-, rfl⟩⟩ := step_next_cases h
  · simp [hr] at hrst
  · simp [afterSegment, (segmentOf_shell _).bsync1]

/-- Settles O29: one edge shifts `busy_in` into the first stage, the next edge shifts it into the second. -/
theorem synchronizerTakesTwoEdges : Obligations.SynchronizerTakesTwoEdges := by
  intro s t u hs hst ht htu
  obtain ⟨hfirst, hsecond⟩ := step_sync hs hst
  exact ⟨hfirst, hsecond, (step_sync ht htu).2.trans hfirst⟩

/-! ### Who writes ERRINFO, POLLS and RST_N -/

/-- ERRINFO changes only where an error is recorded: the engine raised one with no error standing, or the queue
overflowed. -/
theorem finishEdge_errinfo_changes {s : State} {inp : Input}
    (h : (finishEdge inp s (afterSegment inp.access s)).errinfo ≠ s.errinfo) :
    (finishEdge inp s (afterSegment inp.access s)).err = true ∧ (s.err = false ∨ clears 5 inp.access = true) := by
  rw [finishEdge_err]
  rw [finishEdge_errinfo] at h
  cases ho : offer s inp.access with
  | overflow w =>
    have herr : s.err = false := by
      cases he : s.err with
      | false => rfl
      | true => obtain h' | h' := offer_of_err he inp.access <;> simp [h'] at ho
    exact ⟨by simp [raiseOverflow, ho], .inl herr⟩
  | nothing | drop | push w =>
    simp only [raiseOverflow, ho, afterSegment] at h ⊢
    obtain hkept | hraised := segmentOf_errors (hostWrite inp.access s)
    · exact absurd (by simp [hkept.errinfo]) h
    · refine ⟨hraised.err, ?_⟩
      have hprior : (hostWrite inp.access s).err = false := by
        cases he : (hostWrite inp.access s).err with
        | false => rfl
        | true => exact absurd (by simp [(hraised.later he).2]) h
      simpa [hostWrite_err, or_iff_not_imp_left] using hprior

/-- Settles O34: of the parts of an edge only the error procedure writes ERRINFO, and only the segments of WAIT_IDLE
and RESET write POLLS and RST_N. -/
theorem whoWritesErrinfoPollsAndPanelReset : Obligations.WhoWritesErrinfoPollsAndPanelReset := by
  intro s t hr hstep
  obtain ⟨-, ⟨hrst, -⟩ | ⟨-, rfl⟩⟩ := step_next_cases hstep
  · simp [hr] at hrst
  · refine ⟨finishEdge_errinfo_changes, fun hpolls => ?_, fun hrstN => ?_⟩
    · by_contra hwait
      have hkept : WaitKept (hostWrite s.input.access s) (afterSegment s.input.access s) :=
        segmentOf_waitKept (by simpa using hwait)
      exact hpolls (by simp [hkept.polls])
    · by_contra hreset
      have hkept : (afterSegment s.input.access s).rstN = (hostWrite s.input.access s).rstN :=
        segmentOf_rstN (by simpa using hreset)
      exact hrstN (by simp [hkept])

/-! ### Reset -/

/-- The states of R60: in cycle 0, after an edge with `rst_sys` asserted and as shown while it is asserted, everything
but the parameters and what the model holds of the environment is that of the reset state. -/
theorem eq_reset_of_reset {t : State} (h : t = State.reset ∨ (∃ s inp, inp.rst = true ∧ clockEdge inp s = .next t) ∨
    ∃ s : State, s.input.rst = true ∧ t = s.shown) :
    ∃ c inputs draws, t = { State.reset with cfg := c, inputs := inputs, draws := draws } := by
  obtain rfl | ⟨s, inp, hr, hedge⟩ | ⟨s, hr, rfl⟩ := h
  · exact ⟨_, _, _, rfl⟩
  · rw [clockEdge_reset hr] at hedge
    exact ⟨_, _, _, (Host.Outcome.next.inj hedge).symm⟩
  · exact ⟨s.cfg, [], 0, by rw [State.shown, if_pos hr]; rfl⟩

/-- After reset only IDLE shows in STATUS: the empty queue is not full. -/
theorem reset_statusValue {t : State} {c : Config} {inputs : List Input} {draws : Nat} (hv : c.Valid)
    (ht : t = { State.reset with cfg := c, inputs := inputs, draws := draws }) : t.statusValue = 0x00000001 := by
  subst ht
  have hfull : (0 == c.qdepth) = false := beq_false_of_ne (Nat.ne_of_lt hv.qdepth_pos)
  refine BitVec.eq_of_toNat_eq ?_
  rw [statusValue_toNat (Nat.zero_le _)]
  simp [State.reset, State.isIdle, hfull]

/-- Settles O1: the three kinds of state are the reset state but for its parameters, which only STATUS reads. -/
theorem resetGivesEveryFieldItsValue : Obligations.ResetGivesEveryFieldItsValue := by
  intro t h
  obtain ⟨c, inputs, draws, rfl⟩ := eq_reset_of_reset h
  refine ⟨by simp [State.reset], fun hv => ⟨?_, rfl, reset_statusValue hv rfl, ?_, rfl⟩⟩
  · simp only [State.ctrlValue, State.reset]
    decide
  · exact BitVec.eq_of_toNat_eq (by rw [pinsValue_toNat]; rfl)

end Sys2Proof.Machine
end

section
/-! The family 20_memory.md: what an edge reads of the host's access, what its flush does, and the port's registers. -/

namespace Sys2Proof.Machine

/-! ### What an edge reads of an access -/

@[simp] theorem afterSegment_none (s : State) : afterSegment none s = segmentOf s := rfl

/-- An edge reads an access only through what it writes, whether it flushes, and the word it offers. -/
theorem clockEdge_congr {s : State} {a a' : Option Access} (hw : hostWrite a s = hostWrite a' s)
    (hf : hostFlush a = hostFlush a') (ho : offer s a = offer s a') (b : Bool) :
    clockEdge ⟨false, a, b⟩ s = clockEdge ⟨false, a', b⟩ s := by
  rw [clockEdge_run rfl, clockEdge_run rfl]
  simp only [afterSegment, hw, finishEdge, flushAt, hf, ho, raiseOverflow]

theorem clockEdge_read (off : Offset) (b : Bool) (s : State) :
    clockEdge ⟨false, some (.read off), b⟩ s = clockEdge ⟨false, none, b⟩ s :=
  clockEdge_inert (fun _ _ => rfl) b s

/-- A refused write (20_memory.md R73, R78) leaves the edge as it is without an access: the registers that an edge
looks for in a write are writable. -/
theorem clockEdge_of_writeErr {off : Offset} (h : writeErr off = true) (v : Word) (b : Bool) (s : State) :
    clockEdge ⟨false, some (.write off v), b⟩ s = clockEdge ⟨false, none, b⟩ s := by
  refine clockEdge_inert (fun r hr => ?_) b s
  have hoff : Reg.ofOffset off ≠ some r := fun hoff => by
    obtain rfl | rfl | rfl := hr <;> simp [writeErr, hoff] at h
  exact if_neg hoff

/-! ### The overflow and the flush -/

theorem raiseOverflow_of_overflow {before : State} {a : Option Access} {w : Word} (h : offer before a = .overflow w)
    (s : State) : raiseOverflow before a s = s.recordError .overflow w := by simp [raiseOverflow, h]

theorem raiseOverflow_of_no_overflow {before : State} {a : Option Access} (h : ∀ w, offer before a ≠ .overflow w)
    (s : State) : raiseOverflow before a s = s := by
  unfold raiseOverflow
  split
  · next w hw => exact absurd hw (h w)
  all_goals rfl

theorem flushAt_of_overflow {before : State} {a : Option Access} {w : Word} (h : offer before a = .overflow w)
    (after : State) : flushAt before after a = true := by simp [flushAt, h]

theorem flushAt_of_no_overflow {before : State} {a : Option Access} (h : ∀ w, offer before a ≠ .overflow w)
    (after : State) : flushAt before after a = (hostFlush a || engineRaised before after) := by
  unfold flushAt
  split
  · next w hw => exact absurd hw (h w)
  all_goals exact Bool.or_false _

/-- A flush empties the queue and keeps the edge from starting anything (40_framer.md R130). -/
theorem finishEdge_of_flush {inp : Input} {before after : State} (h : flushAt before after inp.access = true) :
    (finishEdge inp before after).q = [] ∧ (finishEdge inp before after).cur = after.cur ∧
    (engineFree before after = true →
      (finishEdge inp before after).eng = .idle ∧ (finishEdge inp before after).k = none) := by
  have hstart : dispatchChoice before after true = .nothing := rfl
  refine ⟨by simp [finishEdge_q, h, nextQueue], ?_, fun hfree => ?_⟩
  · rw [finishEdge_cur, h, hstart]
    cases engineFree before after <;> rfl
  · rw [finishEdge_eng, finishEdge_k, h, hstart, hfree]
    exact ⟨rfl, rfl⟩

/-- A segment in which the engine raised nothing keeps the error registers as the host's write left them. -/
theorem afterSegment_errorsKept {a : Option Access} {s : State} (h : engineRaised s (afterSegment a s) = false) :
    ErrorsKept (hostWrite a s) (afterSegment a s) := by
  obtain hkept | ⟨hbusy, hraised⟩ := segmentOf_kept_or_raised (hostWrite a s)
  · exact hkept
  · rw [hostWrite_eng] at hbusy
    simp [engineRaised, afterSegment, hbusy, hraised.eng] at h

/-! ### Reads and refused writes -/

/-- The offsets that are not legal (20_memory.md R73). -/
theorem ofOffset_eq_none_iff :
    ∀ off : Offset, Reg.ofOffset off = none ↔ off.toNat % 4 ≠ 0 ∨ off = 0x18 ∨ off = 0x1C := by decide

theorem regRead_of_none {off : Offset} (h : Reg.ofOffset off = none) (s : State) : regRead s off = .read 0 true := by
  simp [regRead, h]

theorem regRead_of_some {off : Offset} {r : Reg} (h : Reg.ofOffset off = some r) (s : State) :
    regRead s off = .read (s.regValue r) false := by
  simp [regRead, h]

theorem writeErr_of_none {off : Offset} (h : Reg.ofOffset off = none) : writeErr off = true := by simp [writeErr, h]

/-- Settles O15: the six values are those of the definitions, and an edge looks for writes only. -/
theorem readsGiveValuesAndChangeNothing : Obligations.ReadsGiveValuesAndChangeNothing :=
  fun s b => ⟨rfl, rfl, rfl, rfl, rfl, rfl, fun _ h => regRead_of_none h s, fun off => clockEdge_read off b s⟩

/-- Settles O16: the offsets it names are those at which there is no register. -/
theorem illegalOffsetsGetTheErrorResponse : Obligations.IllegalOffsetsGetTheErrorResponse := by
  intro s off v b
  rw [← ofOffset_eq_none_iff]
  refine ⟨fun hnone => ⟨regRead_of_none hnone s, ?_, clockEdge_read off b s,
    clockEdge_of_writeErr (writeErr_of_none hnone) v b s⟩, fun hlegal => ?_⟩
  · simp [respond, regWrite, hnone, writeErr_of_none hnone]
  · obtain ⟨r, hr⟩ := Option.ne_none_iff_exists'.mp hlegal
    exact ⟨_, regRead_of_some hr s⟩

/-- Settles O17: a write at the three offsets is refused. -/
theorem readOnlyRegistersRefuseWrites : Obligations.ReadOnlyRegistersRefuseWrites := by
  rintro s off v b (rfl | rfl | rfl) <;> exact ⟨rfl, clockEdge_of_writeErr rfl v b s⟩

end Sys2Proof.Machine
end

section
/-! The family 20_memory.md: writes to CTRL, STATUS and OP, each compared with the same edge without the write. -/

namespace Sys2Proof.Machine

/-! ### CTRL -/

/-- The segment of an edge carries a CTRL write through: it reads no control bit. -/
theorem afterSegment_ctrl (v : Word) (s : State) :
    afterSegment (some (.write 0#5 v)) s = (segmentOf s).writeCtrl v := by
  have hdone : (segmentOf s).withControl (v.getLsbD 0) (v.getLsbD 4) (v.getLsbD 5) s.done =
      (segmentOf s).writeCtrl v := by
    rw [← (segmentOf_shell s).done]
    rfl
  exact (segmentOf_withControl (v.getLsbD 0) (v.getLsbD 4) (v.getLsbD 5) s.done s).trans hdone

theorem engineFree_writeCtrl (before after : State) (v : Word) :
    engineFree before (after.writeCtrl v) = engineFree before after := rfl

theorem engineRaised_writeCtrl (before after : State) (v : Word) :
    engineRaised before (after.writeCtrl v) = engineRaised before after := rfl

theorem dispatchChoice_writeCtrl (before after : State) (v : Word) (flush : Bool) :
    dispatchChoice before (after.writeCtrl v) flush = dispatchChoice before after flush := rfl

theorem dispatchOp_writeCtrl (free : Bool) (start : Start) (s : State) (v : Word) :
    dispatchOp free start (s.writeCtrl v) = (dispatchOp free start s).writeCtrl v := by
  unfold dispatchOp
  cases free with
  | false => rfl
  | true => cases start <;> rfl

theorem setDone_writeCtrl (before s : State) (v : Word) :
    setDone before (s.writeCtrl v) = (setDone before s).writeCtrl v := by
  have hidle : (s.writeCtrl v).isIdle = s.isIdle := rfl
  unfold setDone
  rw [hidle, State.writeCtrl_err]
  split <;> rfl

/-- Without a flush a CTRL write does nothing at its edge but set EN and the enables. -/
theorem finishEdge_ctrl_of_no_flush {v : Word} (hv : v.getLsbD 1 = false) (b : Bool) (before after : State) :
    finishEdge ⟨false, some (.write 0#5 v), b⟩ before (after.writeCtrl v) =
      (finishEdge ⟨false, none, b⟩ before after).writeCtrl v := by
  have hflush : flushAt before (after.writeCtrl v) (some (.write 0#5 v)) = flushAt before after none := by
    rw [flushAt_of_no_overflow (by simp), flushAt_of_no_overflow (by simp), engineRaised_writeCtrl, hostFlush_ctrl, hv,
      hostFlush_none]
  simp only [finishEdge, hflush, engineFree_writeCtrl, dispatchChoice_writeCtrl,
    raiseOverflow_of_no_overflow (a := some (.write 0#5 v)) (by simp),
    raiseOverflow_of_no_overflow (a := none) (by simp), dispatchOp_writeCtrl]
  generalize dispatchOp _ _ after = s
  exact congrArg (State.tick b) (setDone_writeCtrl before { s with q := _ } v)

/-- Settles O18: the segment carries the write through, so that the edge differs from the one without the write only
by EN and the enables, and by what a flush does. -/
theorem ctrlWriteSetsEnablesAndFlushes : Obligations.CtrlWriteSetsEnablesAndFlushes := by
  intro s v b
  simp only [BitVec.ofNat_eq_ofNat]
  refine ⟨_, _, rfl, clockEdge_run rfl s, clockEdge_run rfl s, ?_⟩
  simp only [afterSegment_ctrl, afterSegment_none]
  refine ⟨by simp, by simp, by simp, by simp, by simp, by simp, by simp, by simp, ?_, ?_, ?_, fun hv => ?_,
    fun hv => ?_, fun v' h0 h1 h4 h5 => ?_⟩
  · simp [finishEdge_err, raiseOverflow]
  · simp [finishEdge_errcode, raiseOverflow]
  · simp [finishEdge_errinfo, raiseOverflow]
  · have hflush : flushAt s ((segmentOf s).writeCtrl v) (some (.write 0#5 v)) = true := by
      rw [flushAt_of_no_overflow (by simp), hostFlush_ctrl, hv, Bool.true_or]
    obtain ⟨hq, hcur, hfree⟩ := finishEdge_of_flush (inp := ⟨false, some (.write 0#5 v), b⟩) hflush
    refine ⟨hq, hcur.trans (segmentOf_shell s).cur, ?_, hfree, fun hbusy => ?_⟩
    · rw [finishEdge_done, State.writeCtrl_done, (segmentOf_shell s).done]
      simp [and_assoc]
    · obtain ⟨heng, -, hk⟩ := finishEdge_of_not_free (inp := ⟨false, some (.write 0#5 v), b⟩)
        (after := (segmentOf s).writeCtrl v) hbusy
      obtain ⟨heng', -, hk'⟩ := finishEdge_of_not_free (inp := ⟨false, none, b⟩) hbusy
      exact ⟨heng.trans heng'.symm, hk.trans hk'.symm⟩
  · rw [finishEdge_ctrl_of_no_flush hv]
    exact ⟨rfl, rfl, rfl, rfl, rfl⟩
  · rw [← afterSegment_ctrl, ← clockEdge_run rfl s]
    refine clockEdge_congr ?_ ?_ ?_ b
    · simp only [hostWrite_ctrl, State.writeCtrl, h0, h4, h5]
    · simp only [hostFlush_ctrl, h1]
    · rfl

/-! ### STATUS -/

theorem clears_status (n : Nat) (v : Word) : clears n (some (.write 4#5 v)) = v.getLsbD n := rfl

/-- Settles O19: the host's clear comes before the segment, so that only what DONE's rule or the error procedure sets
at the same edge is left. -/
theorem statusWriteClearsStickyBits : Obligations.StatusWriteClearsStickyBits := by
  intro s v b
  simp only [BitVec.ofNat_eq_ofNat]
  refine ⟨_, rfl, clockEdge_run rfl s, fun hv => ?_, fun hv hr => ?_, fun hr => ?_, fun v' h4 h5 => ?_⟩
  · have hdone : (afterSegment (some (.write 4#5 v)) s).done = false := by
      rw [afterSegment, (segmentOf_shell _).done, hostWrite_done, clears_status, hv]
      simp
    rw [finishEdge_done, hdone]
    simp [and_assoc]
  · have hkept := afterSegment_errorsKept hr
    rw [finishEdge_err, finishEdge_errcode, raiseOverflow_of_no_overflow (by simp), hkept.err, hkept.errcode,
      hostWrite_err, hostWrite_errcode, clears_status, hv]
    simp
  · rw [finishEdge_errinfo, raiseOverflow_of_no_overflow (by simp), (afterSegment_errorsKept hr).errinfo,
      hostWrite_errinfo]
  · rw [← clockEdge_run rfl s]
    refine clockEdge_congr ?_ ?_ ?_ b
    · simp only [hostWrite_status, h4, h5]
    · rfl
    · rfl

/-! ### OP -/

theorem nextQueue_push (q : List Word) (flush dispatched : Bool) (w : Word) :
    nextQueue q flush dispatched (.push w) = if flush then [] else nextQueue q flush dispatched .nothing ++ [w] := by
  cases flush <;> simp [nextQueue]

section
variable {s : State} (w : Word)

theorem offer_op_of_err (h : s.err = true) : offer s (some (.write 8#5 w)) = .drop := by simp [offer_op, h]

theorem offer_op_of_room (h : s.err = false) (hroom : s.q.length ≠ s.cfg.qdepth) :
    offer s (some (.write 8#5 w)) = .push w := by simp [offer_op, h, hroom]

theorem offer_op_of_full (h : s.err = false) (hfull : s.q.length = s.cfg.qdepth) :
    offer s (some (.write 8#5 w)) = .overflow w := by simp [offer_op, h, hfull]

/-- A word that does not overflow the queue flushes nothing. -/
theorem flushAt_op (h : ∀ x, offer s (some (.write 8#5 w)) ≠ .overflow x) (after : State) :
    flushAt s after (some (.write 8#5 w)) = engineRaised s after := by
  rw [flushAt_of_no_overflow h, hostFlush_op, Bool.false_or]

end

theorem flushAt_none (before after : State) : flushAt before after none = engineRaised before after := by
  simp [flushAt]

/-- A word dropped while ERR = 1 leaves the edge as it is without the write. -/
theorem finishEdge_op_of_err {s : State} (h : s.err = true) (w : Word) (b : Bool) (after : State) :
    finishEdge ⟨false, some (.write 8#5 w), b⟩ s after = finishEdge ⟨false, none, b⟩ s after := by
  have ho := offer_op_of_err w h
  have hflush := (flushAt_op w (by simp [ho]) after).trans (flushAt_none s after).symm
  simp only [finishEdge, hflush, raiseOverflow, ho]
  rfl

/-- Settles O20: the segment does not see the word, and the three answers of the port are taken one by one. -/
theorem opWriteQueuesDropsOrOverflows : Obligations.OpWriteQueuesDropsOrOverflows := by
  intro s w b
  simp only [BitVec.ofNat_eq_ofNat]
  refine ⟨_, _, rfl, clockEdge_run rfl s, clockEdge_run rfl s, ?_⟩
  have hsame : afterSegment (some (.write 8#5 w)) s = afterSegment none s := rfl
  simp only [hsame]
  refine ⟨fun herr => finishEdge_op_of_err herr w b _, fun herr hroom => ?_, fun herr hfull => ?_⟩
  · have ho := offer_op_of_room w herr hroom
    have hover : ∀ x, offer s (some (.write 8#5 w)) ≠ .overflow x := by simp [ho]
    have hflush := flushAt_op w hover (afterSegment none s)
    refine ⟨?_, ?_⟩
    · simp only [finishEdge_q, hflush, flushAt_none, ho, nextQueue_push, offer_none]
    · simp only [finishEdge_err, finishEdge_errcode, finishEdge_errinfo, finishEdge_eng, finishEdge_k, finishEdge_cur,
        hflush, flushAt_none, raiseOverflow_of_no_overflow hover, raiseOverflow_of_no_overflow (a := none) (by simp),
        and_self]
  · have ho := offer_op_of_full w herr hfull
    have hflush := flushAt_of_overflow ho (afterSegment none s)
    obtain ⟨hq, -, -⟩ := finishEdge_of_flush (inp := ⟨false, some (.write 8#5 w), b⟩) hflush
    refine ⟨hq, ?_, fun hr => ?_⟩
    · rw [finishEdge_err, raiseOverflow_of_overflow ho, State.recordError_err]
    · have herr' : (afterSegment none s).err = false := (afterSegment_errorsKept hr).err.trans herr
      rw [finishEdge_errcode, finishEdge_errinfo, raiseOverflow_of_overflow ho, State.recordError_errcode,
        State.recordError_errinfo, herr']
      exact ⟨rfl, rfl⟩

end Sys2Proof.Machine
end

section
/-! The family 30_encoding.md: decode and encode are each other's inverse, the operands and the opcode table. -/

namespace Sys2Proof

open Machine (extractLsb'_of_toNat getLsbD_of_toNat)

/-! ### Decode of encode -/

/-- The word of a well-formed op is legal and has the op's opcode (30_encoding.md R101, R111). -/
theorem legal_encode {i : Instr} (h : WellFormed i) : legal (encode i) = true ∧ opcodeOf (encode i) = i.opcode := by
  cases i with
  | nop => exact Laws.EncodesLegal.nop h
  | cmd byte => exact Laws.EncodesLegal.cmd byte h
  | data last byte => exact Laws.EncodesLegal.data last byte h
  | pix last left right => exact Laws.EncodesLegal.pix last left right h
  | fill count last color => exact Laws.EncodesLegal.fill count last color h
  | reset => exact Laws.EncodesLegal.reset h
  | waitidle => exact Laws.EncodesLegal.waitidle h
  | delay ms => exact Laws.EncodesLegal.delay ms h

/-- An op is read off a word with its opcode and its number, field by field (30_encoding.md R110). -/
theorem readFields_of_toNat {w : Word} {i : Instr} (ho : opcodeOf w = i.opcode) (hw : w.toNat = encodedNat i) :
    readFields w = some i := by
  unfold readFields
  rw [ho]
  cases i with
  | nop | reset | waitidle => rfl
  | cmd byte =>
    simp only [encodedNat] at hw
    have hbyte : fieldByte w = byte := extractLsb'_of_toNat (by omega)
    rw [← hbyte]; rfl
  | data last byte =>
    have := last.toNat_le
    simp only [encodedNat] at hw
    have hbyte : fieldByte w = byte := extractLsb'_of_toNat (by omega)
    have hlast : fieldLast w = last := getLsbD_of_toNat (by omega)
    rw [← hbyte, ← hlast]; rfl
  | pix last left right =>
    have := last.toNat_le
    simp only [encodedNat] at hw
    have hleft : fieldLeft w = left := extractLsb'_of_toNat (by omega)
    have hright : fieldRight w = right := extractLsb'_of_toNat (by omega)
    have hlast : fieldLast w = last := getLsbD_of_toNat (by omega)
    rw [← hleft, ← hright, ← hlast]; rfl
  | fill count last color =>
    have := last.toNat_le
    simp only [encodedNat] at hw
    have hcount : fieldCount w = count := extractLsb'_of_toNat (by omega)
    have hcolor : fieldColor w = color := extractLsb'_of_toNat (by omega)
    have hlast : fieldLast w = last := getLsbD_of_toNat (by omega)
    rw [← hcount, ← hcolor, ← hlast]; rfl
  | delay ms =>
    simp only [encodedNat] at hw
    have hms : fieldMs w = ms := extractLsb'_of_toNat (by omega)
    rw [← hms]; rfl

theorem decode_encode {i : Instr} (h : WellFormed i) : decode (encode i) = some i := by
  obtain ⟨hl, ho⟩ := legal_encode h
  rw [decode, if_pos hl, readFields_of_toNat ho (encode_toNat i)]

/-- Settles O7: the word of a well-formed op is legal, and each of its fields is the operand. -/
theorem decodeOfEncodeIsTheOp : Obligations.DecodeOfEncodeIsTheOp := fun _ => decode_encode

/-! ### Encode of decode -/

/-- LAST as a number. -/
theorem fieldLast_toNat (w : Word) : (fieldLast w).toNat = w.toNat / 2 ^ 8 % 2 := by
  rw [fieldLast, bit_eq]
  rcases Nat.mod_two_eq_zero_or_one (w.toNat / 2 ^ 8) with h | h <;> rw [h] <;> rfl

/-- A legal word is the number its op's fields make: its reserved bits add nothing. -/
theorem encodedNat_of_readFields {w : Word} {i : Instr} (hl : legal w = true) (h : readFields w = some i) :
    encodedNat i = w.toNat := by
  have hop := field_toNat w 28 4
  have hw := w.isLt
  unfold legal opcodeOf at hl
  unfold readFields opcodeOf at h
  split at h
  case h_9 => cases h
  all_goals
    rename_i ho
    obtain rfl := Option.some.inj h
    simp only [ho, field_eq, Bool.and_eq_true, decide_eq_true_eq, field_toNat, BitVec.toNat_ofNat] at hl hop
    simp only [encodedNat, fieldLast_toNat, fieldByte, fieldLeft, fieldRight, fieldColor, fieldCount, fieldMs,
      field_toNat]
    omega

/-- The legality check holds FILL's COUNT apart from 0 (30_encoding.md R111), the one condition an op has. -/
theorem wellFormed_of_readFields {w : Word} {i : Instr} (hl : legal w = true) (h : readFields w = some i) :
    WellFormed i := by
  unfold legal at hl
  unfold readFields at h
  split at h
  case h_5 ho =>
    obtain rfl := Option.some.inj h
    simp only [ho, Bool.and_eq_true] at hl
    exact hl.2
  case h_9 => cases h
  all_goals obtain rfl := Option.some.inj h; rfl

theorem decode_eq_some {w : Word} {i : Instr} : decode w = some i ↔ legal w = true ∧ readFields w = some i := by
  simp [decode]

/-- Every word stands for one op or for none (30_encoding.md R112). -/
theorem decode_eq_some_iff {w : Word} {i : Instr} : decode w = some i ↔ encode i = w ∧ WellFormed i := by
  constructor
  · intro h
    obtain ⟨hl, hr⟩ := decode_eq_some.mp h
    exact ⟨BitVec.eq_of_toNat_eq ((encode_toNat i).trans (encodedNat_of_readFields hl hr)),
      wellFormed_of_readFields hl hr⟩
  · rintro ⟨rfl, hw⟩
    exact decode_encode hw

/-- Settles O8: a legal word has no bit outside its op's fields, so the fields make it up again. -/
theorem encodeOfDecodeIsTheWord : Obligations.EncodeOfDecodeIsTheWord := fun _ _ => decode_eq_some_iff.mp

/-! ### The operands -/

theorem toNat_of_decode {w : Word} {i : Instr} (h : decode w = some i) : w.toNat = encodedNat i := by
  obtain ⟨rfl, -⟩ := decode_eq_some_iff.mp h
  exact encode_toNat i

/-- Settles O10: the word is the number its op's operands make, and each operand is a digit of it. -/
theorem operandsAreTheWordsBits : Obligations.OperandsAreTheWordsBits := by
  intro w
  refine ⟨fun b h => ?_, fun l b h => ?_, fun l x y h => ?_, fun n l c h => ?_, fun m h => ?_⟩
  all_goals
    have e := toNat_of_decode h
    simp only [encodedNat] at e
  · omega
  · have := l.toNat_le
    exact ⟨by omega, (getLsbD_of_toNat (by omega)).symm⟩
  · have := l.toNat_le
    exact ⟨by omega, by omega, (getLsbD_of_toNat (by omega)).symm⟩
  · have := l.toNat_le
    obtain ⟨-, hn⟩ := decode_eq_some_iff.mp h
    exact ⟨by omega, by omega, (getLsbD_of_toNat (by omega)).symm, bne_iff_ne.mp hn⟩
  · omega

/-! ### The opcode table -/

/-- The decoder refuses a word only for the legality check (30_encoding.md R112). -/
theorem exists_decode_iff_legal (w : Word) : (∃ i, decode w = some i) ↔ legal w = true := by
  simp only [decode_eq_some, exists_and_left, and_iff_left_iff_imp]
  intro hl
  unfold legal at hl
  split at hl <;> rename_i ho
  case h_9 => cases hl
  all_goals simp [readFields, ho]

/-- A row whose mask covers exactly the given fields, each a start bit and a length, admits the words that have the
pattern's value in each of them. -/
theorem admits_iff_fields {r : OpRow} (fields : List (Nat × Nat)) (hpattern : r.pattern &&& r.mask = r.pattern)
    (hmask : ∀ i < 32, r.mask.getLsbD i = true ↔ ∃ f ∈ fields, f.1 ≤ i ∧ i < f.1 + f.2) (w : Word) :
    r.admits w = true ↔ ∀ f ∈ fields, w.extractLsb' f.1 f.2 = r.pattern.extractLsb' f.1 f.2 := by
  rw [OpRow.admits, beq_iff_eq]
  constructor
  · rintro h ⟨start, len⟩ hf
    refine BitVec.eq_of_getLsbD_eq fun j hj => ?_
    simp only [BitVec.getLsbD_extractLsb', hj, decide_true, Bool.true_and]
    by_cases hi : start + j < 32
    · have hm : r.mask.getLsbD (start + j) = true := (hmask _ hi).mpr ⟨_, hf, by simp [hj]⟩
      rw [← h, BitVec.getLsbD_and, hm, Bool.and_true]
    · rw [BitVec.getLsbD_of_ge _ _ (by omega), BitVec.getLsbD_of_ge _ _ (by omega)]
  · intro h
    rw [← hpattern]
    refine BitVec.eq_of_getLsbD_eq fun i hi => ?_
    rw [BitVec.getLsbD_and, BitVec.getLsbD_and]
    cases hm : r.mask.getLsbD i with
    | false => simp
    | true =>
      obtain ⟨⟨start, len⟩, hf, hle, hlt⟩ := (hmask i hi).mp hm
      have hbit := congrArg (·.getLsbD (i - start)) (h _ hf)
      simpa [show i - start < len by omega, show start + (i - start) = i by omega] using hbit

section
variable (w : Word)

theorem admits_nop : OpRow.admits ⟨"nop", 0x00000000, 0xFFFFFFFF⟩ w = true ↔
    (opcodeOf w).toNat = 0 ∧ w.extractLsb' 0 28 = 0#28 :=
  (admits_iff_fields [(28, 4), (0, 28)] (by decide) (by decide) w).trans (by simp [opcodeOf, ← BitVec.toNat_inj])

theorem admits_cmd : OpRow.admits ⟨"cmd", 0x10000000, 0xFFFFFF00⟩ w = true ↔
    (opcodeOf w).toNat = 1 ∧ w.extractLsb' 8 20 = 0#20 :=
  (admits_iff_fields [(28, 4), (8, 20)] (by decide) (by decide) w).trans (by simp [opcodeOf, ← BitVec.toNat_inj])

theorem admits_data : OpRow.admits ⟨"data", 0x20000000, 0xFFFFFE00⟩ w = true ↔
    (opcodeOf w).toNat = 2 ∧ w.extractLsb' 9 19 = 0#19 :=
  (admits_iff_fields [(28, 4), (9, 19)] (by decide) (by decide) w).trans (by simp [opcodeOf, ← BitVec.toNat_inj])

theorem admits_pix : OpRow.admits ⟨"pix", 0x30000000, 0xFFFFFE88⟩ w = true ↔
    (opcodeOf w).toNat = 3 ∧ w.extractLsb' 9 19 = 0#19 ∧ w.extractLsb' 7 1 = 0#1 ∧ w.extractLsb' 3 1 = 0#1 :=
  (admits_iff_fields [(28, 4), (9, 19), (7, 1), (3, 1)] (by decide) (by decide) w).trans
    (by simp [opcodeOf, ← BitVec.toNat_inj])

theorem admits_fill : OpRow.admits ⟨"fill", 0x40000000, 0xF0000EF8⟩ w = true ↔
    (opcodeOf w).toNat = 4 ∧ w.extractLsb' 9 3 = 0#3 ∧ w.extractLsb' 3 5 = 0#5 :=
  (admits_iff_fields [(28, 4), (9, 3), (3, 5)] (by decide) (by decide) w).trans
    (by simp [opcodeOf, ← BitVec.toNat_inj])

theorem admits_reset : OpRow.admits ⟨"reset", 0x50000000, 0xFFFFFFFF⟩ w = true ↔
    (opcodeOf w).toNat = 5 ∧ w.extractLsb' 0 28 = 0#28 :=
  (admits_iff_fields [(28, 4), (0, 28)] (by decide) (by decide) w).trans (by simp [opcodeOf, ← BitVec.toNat_inj])

theorem admits_waitidle : OpRow.admits ⟨"waitidle", 0x60000000, 0xFFFFFFFF⟩ w = true ↔
    (opcodeOf w).toNat = 6 ∧ w.extractLsb' 0 28 = 0#28 :=
  (admits_iff_fields [(28, 4), (0, 28)] (by decide) (by decide) w).trans (by simp [opcodeOf, ← BitVec.toNat_inj])

theorem admits_delay : OpRow.admits ⟨"delay", 0x70000000, 0xFFF00000⟩ w = true ↔
    (opcodeOf w).toNat = 7 ∧ w.extractLsb' 20 8 = 0#8 :=
  (admits_iff_fields [(28, 4), (20, 8)] (by decide) (by decide) w).trans (by simp [opcodeOf, ← BitVec.toNat_inj])

end

/-- The one NOP word is the word of opcode 0 with no payload (30_encoding.md R102). -/
theorem eq_zero_iff (w : Word) : w = 0#32 ↔ (opcodeOf w).toNat = 0 ∧ w.extractLsb' 0 28 = 0#28 := by
  have := w.isLt
  simp only [← BitVec.toNat_inj, opcodeOf, field_toNat, BitVec.toNat_ofNat]
  omega

/-- The legality check asks for the fixed bits of the opcode's row (30_encoding.md R111 and R102 to R109). -/
theorem legal_iff_row (w : Word) : legal w = true ↔
    ∃ r ∈ opcodeTable, r.admits w = true ∧ (r.mnemonic = "fill" → fieldCount w ≠ 0) := by
  simp only [opcodeTable, List.mem_cons, List.not_mem_nil, or_false, exists_eq_or_imp, exists_eq_left, admits_nop,
    admits_cmd, admits_data, admits_pix, admits_fill, admits_reset, admits_waitidle, admits_delay]
  unfold legal
  split
  case h_1 ho => simp [ho, eq_zero_iff]
  case h_9 =>
    -- no row has an opcode from 0x8 on
    grind
  all_goals
    rename_i ho
    simp [ho, fieldCount, and_assoc]

/-- Every row of the table fixes the opcode. -/
theorem opcodeOf_of_admits {r : OpRow} (hr : r ∈ opcodeTable) {w : Word} (h : r.admits w = true) :
    opcodeOf w = opcodeOf r.pattern := by
  have hmask : ∀ r ∈ opcodeTable, opcodeOf r.mask = BitVec.allOnes 4 := by decide
  rw [← beq_iff_eq.mp h, opcodeOf, opcodeOf, BitVec.extractLsb'_and, ← opcodeOf, ← opcodeOf, hmask r hr,
    BitVec.and_allOnes]

theorem opcodeOf_of_decode {w : Word} {i : Instr} (h : decode w = some i) : opcodeOf w = i.opcode := by
  obtain ⟨rfl, hw⟩ := decode_eq_some_iff.mp h
  exact (legal_encode hw).2

/-- The opcode says which row of the table an op is in (30_encoding.md R101). -/
theorem mnemonic_of_opcode (i : Instr) :
    ∀ r ∈ opcodeTable, opcodeOf r.pattern = i.opcode → r.mnemonic = i.mnemonic := by
  cases i <;> simp only [Instr.opcode, Instr.mnemonic] <;> decide

/-- Settles O9: the legality check is the table's, and a row and the op read agree on the opcode. -/
theorem decoderFollowsTheTable : Obligations.DecoderFollowsTheTable :=
  ⟨fun w => (exists_decode_iff_legal w).trans (legal_iff_row w), fun _ i h r hr hadmits =>
    mnemonic_of_opcode i r hr ((opcodeOf_of_admits hr hadmits).symm.trans (opcodeOf_of_decode h))⟩

/-! ### Words written out -/

/-- Settles O6: each word decodes by evaluation of the legality check and the fields. -/
theorem writtenOutWordsDecode : Obligations.WrittenOutWordsDecode := by
  unfold Obligations.WrittenOutWordsDecode
  decide

end Sys2Proof
end

section
/-! The family 30_encoding.md: the words each line of assembly writes (R120, R121). -/

namespace Sys2Proof.Machine

/-- The word of an op from its number. -/
theorem encode_eq_of_toNat {i : Instr} {w : Word} (h : encodedNat i = w.toNat) : encode i = w :=
  BitVec.eq_of_toNat_eq ((encode_toNat i).trans h)

/-- A list of byte operands is taken when every one of them is in range. -/
theorem asmBytes_eq (bs : List Nat) :
    asmBytes bs = if ∀ b ∈ bs, b ≤ 255 then some (bs.map (BitVec.ofNat 8)) else none := by
  induction bs with
  | nil => simp [asmBytes]
  | cons b bs ih =>
    simp only [asmBytes, asmByte, ih, List.forall_mem_cons]
    by_cases hb : b ≤ 255
    · by_cases hbs : ∀ b ∈ bs, b ≤ 255
      · simp [hb, if_pos hbs]
      · simp [hb, if_neg hbs]
    · simp [hb]

section
variable (last : Bool) {b c n ms : Nat}

theorem encode_cmd (h : b ≤ 255) : encode (.cmd (BitVec.ofNat 8 b)) = 0x10000000 + BitVec.ofNat 32 b :=
  encode_eq_of_toNat (by simp [encodedNat]; omega)

theorem encode_data (h : b ≤ 255) : encode (.data last (BitVec.ofNat 8 b)) =
    0x20000000 + (if last then 0x100 else 0) + BitVec.ofNat 32 b :=
  encode_eq_of_toNat (by cases last <;> simp [encodedNat] <;> omega)

theorem encode_pix {x y : Nat} (hx : x ≤ 7) (hy : y ≤ 7) :
    encode (.pix last (BitVec.ofNat 3 x) (BitVec.ofNat 3 y)) =
      0x30000000 + (if last then 0x100 else 0) + BitVec.ofNat 32 (16 * x) + BitVec.ofNat 32 y :=
  encode_eq_of_toNat (by cases last <;> simp [encodedNat] <;> omega)

theorem encode_fill (hn : n ≤ 65535) (hc : c ≤ 7) :
    encode (.fill (BitVec.ofNat 16 n) last (BitVec.ofNat 3 c)) =
      0x40000000 + BitVec.ofNat 32 (4096 * n) + (if last then 0x100 else 0) + BitVec.ofNat 32 c :=
  encode_eq_of_toNat (by cases last <;> simp [encodedNat] <;> omega)

theorem encode_delay (h : ms ≤ 1048575) : encode (.delay (BitVec.ofNat 20 ms)) = 0x70000000 + BitVec.ofNat 32 ms :=
  encode_eq_of_toNat (by simp [encodedNat]; omega)

theorem encode_row (h : c ≤ 7) :
    encode (.fill (BitVec.ofNat 16 ROW_BYTES) true (BitVec.ofNat 3 c)) = 0x40190100 + BitVec.ofNat 32 c :=
  encode_eq_of_toNat (by simp [encodedNat, ROW_BYTES]; omega)

end

/-- The op words of a data transaction as R121 writes them: LAST on the last byte only. -/
def sendWords (bs : List Nat) : List HostAction :=
  bs.dropLast.map (fun b => .op (0x20000000 + BitVec.ofNat 32 b)) ++
    bs.getLast?.toList.map (fun b => .op (0x20000100 + BitVec.ofNat 32 b))

theorem sendWords_cons_cons (b b' : Nat) (bs : List Nat) :
    sendWords (b :: b' :: bs) = .op (0x20000000 + BitVec.ofNat 32 b) :: sendWords (b' :: bs) := by
  simp [sendWords]

/-- `sendOps` writes exactly these words. -/
theorem map_encode_sendOps (bs : List Nat) (h : ∀ b ∈ bs, b ≤ 255) :
    (sendOps (bs.map (BitVec.ofNat 8))).map (fun i => HostAction.op (encode i)) = sendWords bs := by
  match bs with
  | [] => rfl
  | [b] => simp [sendOps, sendWords, encode_data true (h b (by simp))]
  | b :: b' :: bs =>
    have ih := map_encode_sendOps (b' :: bs) (fun x hx => h x (List.mem_cons_of_mem b hx))
    rw [sendWords_cons_cons, ← ih]
    simp [sendOps, encode_data false (h b (by simp))]

/-- A `send` is refused without a byte or for a byte out of range, and otherwise writes its words (R121). -/
theorem assemble_send (bs : List Nat) :
    assemble (.send bs) = if bs ≠ [] ∧ ∀ b ∈ bs, b ≤ 255 then some (sendWords bs) else none := by
  simp only [assemble, asmOps, asmBytes_eq]
  by_cases hbs : ∀ b ∈ bs, b ≤ 255
  · by_cases hne : bs = [] <;> simp [if_pos hbs, hne, map_encode_sendOps bs hbs]
  · rw [if_neg hbs, if_neg (fun h => hbs h.2)]
    rfl

/-- A `cmdd` is a command with the `send` of its bytes (R121). -/
theorem assemble_cmdd (opc : Nat) (bs : List Nat) :
    assemble (.cmdd opc bs) = (assemble (.cmd opc)).bind fun c => (assemble (.send bs)).map (c ++ ·) := by
  simp only [assemble, asmOps, cmddOps]
  cases asmByte opc with
  | none => rfl
  | some command =>
    cases asmBytes bs with
    | none => rfl
    | some bytes => cases bytes <;> rfl

theorem assemble_cmd (b : Nat) :
    assemble (.cmd b) = if b ≤ 255 then some [.op (0x10000000 + BitVec.ofNat 32 b)] else none := by
  by_cases h : b ≤ 255 <;> simp [assemble, asmOps, asmByte, h, encode_cmd]

/-- Settles O59: a line is refused for a field out of range or a list without a byte, and otherwise writes its words. -/
theorem assemblerGivesTheWords : Obligations.AssemblerGivesTheWords := by
  refine ⟨assemble_cmd, fun l b => ?_, fun l x y => ?_, fun l c n => ?_, fun m => ?_, rfl, rfl, rfl, rfl, rfl,
    fun opc bs => ?_, assemble_send, fun c => ?_⟩
  · by_cases h : b ≤ 255 <;> simp [assemble, asmOps, asmByte, h, encode_data]
  · by_cases hx : x ≤ 7 <;> by_cases hy : y ≤ 7 <;> simp [assemble, asmOps, asmColour, hx, hy, encode_pix]
  · by_cases hc : c ≤ 7 <;> by_cases hn : 1 ≤ n ∧ n ≤ 65535 <;>
      simp [assemble, asmOps, asmColour, hc, hn, encode_fill]
  · by_cases h : m ≤ 1048575 <;> simp [assemble, asmOps, h, encode_delay]
  · rw [assemble_cmdd, assemble_cmd, assemble_send]
    by_cases hopc : opc ≤ 255
    · by_cases hbs : bs ≠ [] ∧ ∀ b ∈ bs, b ≤ 255
      · obtain ⟨hne, hrange⟩ := hbs
        rw [if_pos hopc, if_pos ⟨hne, hrange⟩, if_pos ⟨hne, hopc, hrange⟩]
        rfl
      · rw [if_pos hopc, if_neg hbs]
        exact (if_neg fun ⟨hne, _, hrange⟩ => hbs ⟨hne, hrange⟩).symm
    · rw [if_neg hopc]
      exact (if_neg fun ⟨_, h, _⟩ => hopc h).symm
  · by_cases h : c ≤ 7 <;> simp [assemble, asmOps, asmColour, h, rowOps, encode_row]

end Sys2Proof.Machine
end

section
/-! The family 40_framer.md: the wire guarantees of R134, kept by every segment and so by every step. -/

namespace Sys2Proof.Config.Valid

variable {c : Config} (h : c.Valid)
include h

theorem tDcs_pos : 1 ≤ c.tDcs := by obtain ⟨-, -, -, -, h, -⟩ := h; exact h
theorem tCss_pos : 1 ≤ c.tCss := by obtain ⟨-, -, -, -, -, h, -⟩ := h; exact h
theorem tCsh_pos : 1 ≤ c.tCsh := by obtain ⟨-, -, -, -, -, -, h, -⟩ := h; exact h

end Sys2Proof.Config.Valid

namespace Sys2Proof.Machine

/-! ### Statements that keep a segment from driving the wire twice -/

/-- From state `s` on, the statements stop the segment, or end it, before they drive the wire again; only the foot of
FILL's loop may, which finds SCLK low and leaves it low. -/
def Stays (s : State) : List Stmt → Prop
  | [] => True
  | .wait n :: rest => n ≠ 0 ∨ Stays s rest
  | .waitRise n :: _ => s.now < afterEdge s.tCsRise n
  | .waitFall n :: _ => s.now < afterEdge s.tSclkFall n
  | .fillAgain _ _ _ :: rest => s.sclk = false ∧ Stays s rest
  | .setRstN _ :: rest => Stays s rest
  | .pollInit :: rest => Stays s rest
  | .sample :: _ => True
  | .pollWake :: _ => True
  | _ :: _ => False

/-- What keeps the wire guarantees at a statement, `e` being known of the pins before it and `rest` being the
statements after it: one that drives the wire is the last to do so in its segment, a pin is driven at the levels of
the others that R134 asks for, and CS_N is lowered only behind the wait for `T_CSW`. -/
def Stmt.wireSafe (c : Config) (e : Expect) (rest : List Stmt) : Stmt → Prop
  | .skipIfHigh n => rest[0]? ≠ some .select ∧ rest[n]? ≠ some .select
  | .skipIfLow n => rest[0]? ≠ some .select ∧ rest[n]? ≠ some .select
  | .waitRise n => rest[0]? = some .select → n = c.tCsw
  | .setDc _ => e.csN = some true ∧ ∀ s, Stays s rest
  | .select => e.sclk = false ∧ ∀ s, Stays s rest
  | .deselect => e.sclk = false ∧ ∀ s, s.tCsRise = some s.now → Stays s rest
  | .bit _ => ∀ s, Stays s rest
  | .sclkHigh => ∀ s, Stays s rest
  | .byteEnd => ∀ s, s.tSclkFall = some s.now → s.sclk = false → Stays s rest
  | _ => rest[0]? ≠ some .select

/-- The same for every statement, `e` being known of the pins before the first. -/
def wireSafeFrom (c : Config) (e : Expect) : List Stmt → Prop
  | [] => True
  | st :: rest => st.wireSafe c e rest ∧ wireSafeFrom c (e.after st) rest

section
variable {c : Config} (hv : c.Valid) {e : Expect} {rest : List Stmt}
include hv

/-- `open(v)` sets D/C and lowers CS_N each right before a wait (R131). -/
theorem wireSafeFrom_openStmts (v : Bool) (hcs : e.csN = some true) (hsclk : e.sclk = false)
    (hnext : rest[0]? ≠ some .select) (h : wireSafeFrom c { e with csN := some false } rest) :
    wireSafeFrom c e (openStmts c v ++ rest) := by
  have hdcs : c.tDcs ≠ 0 := Nat.ne_of_gt hv.tDcs_pos
  have hcss : c.tCss ≠ 0 := Nat.ne_of_gt hv.tCss_pos
  rw [hsclk] at h
  simp [openStmts, wireSafeFrom, Stmt.wireSafe, Stays, Expect.after, hcs, hsclk, hdcs, hcss, hnext, h]

/-- `shift(b)` waits after every level it drives but the last (R132). -/
theorem wireSafeFrom_shiftStmts (b : Byte) (hrest : ∀ s, s.tSclkFall = some s.now → s.sclk = false → Stays s rest)
    (h : wireSafeFrom c { e with sclk := false } rest) : wireSafeFrom c e (shiftStmts c b ++ rest) := by
  have hhalf : c.sckHalf ≠ 0 := Nat.ne_of_gt hv.sckHalf_pos
  simp only [now_eq] at hrest
  simp only [shiftStmts, bitStmts, List.cons_append, List.nil_append, wireSafeFrom, Stmt.wireSafe, Stays, Expect.after]
  simpa [hhalf, h] using hrest

/-- After `shift` the hold time of `close()` is still to pass (R133). -/
theorem stays_closeStmts {s : State} (h : s.tSclkFall = some s.now) : Stays s (closeStmts c) := by
  have hcsh := hv.tCsh_pos
  simp only [closeStmts, Stays, h, afterEdge]
  omega

omit hv in
/-- `close()` raises CS_N with SCLK low; what follows must not drive the wire in the same segment. -/
theorem wireSafeFrom_closeStmts (hsclk : e.sclk = false) (hrest : ∀ s, s.tCsRise = some s.now → Stays s rest)
    (h : wireSafeFrom c { e with csN := some true } rest) : wireSafeFrom c e (closeStmts c ++ rest) :=
  ⟨by simp [Stmt.wireSafe], ⟨hsclk, hrest⟩, h⟩

omit hv in
theorem wireSafeFrom_autoClose (hsclk : e.sclk = false) (hnext : rest[0]? ≠ some .select)
    (hrest : ∀ s, s.tCsRise = some s.now → Stays s rest) (h : wireSafeFrom c { e with csN := some true } rest) :
    wireSafeFrom c e (autoClose c ++ rest) :=
  ⟨⟨by simp [closeStmts], by simpa [closeStmts] using hnext⟩, wireSafeFrom_closeStmts hsclk hrest h⟩

theorem wireSafeFrom_openData (hsclk : e.sclk = false) (hnext : rest[0]? ≠ some .select)
    (h : wireSafeFrom c { e with csN := some false } rest) : wireSafeFrom c e (openData c ++ rest) :=
  ⟨⟨by simp [openStmts], by simpa [openStmts] using hnext⟩, wireSafeFrom_openStmts hv true rfl hsclk hnext h⟩

theorem stays_closeIfLast (last : Bool) {s : State} (h : s.tSclkFall = some s.now) : Stays s (closeIfLast c last) := by
  cases last with
  | false => trivial
  | true => exact stays_closeStmts hv h

omit hv in
theorem wireSafeFrom_closeIfLast (last : Bool) (hsclk : e.sclk = false) : wireSafeFrom c e (closeIfLast c last) := by
  cases last with
  | false => trivial
  | true => exact wireSafeFrom_closeStmts (rest := []) hsclk (fun _ _ => trivial) trivial

omit hv in
/-- A segment that has just raised CS_N has the D/C hold of `open(v)` before it (R131). -/
theorem stays_openStmts {s : State} (v : Bool) (rest : List Stmt) (h : s.tCsRise = some s.now) :
    Stays s (openStmts c v ++ rest) := by
  simp [openStmts, Stays, h, afterEdge]

theorem sendByteProgram_wireSafe (last : Bool) (b : Byte) : wireSafeFrom c .start (sendByteProgram c last b) := by
  rw [sendByteProgram, List.append_assoc]
  refine wireSafeFrom_openData hv rfl (by simp [shiftStmts, bitStmts]) ?_
  exact wireSafeFrom_shiftStmts hv b (fun _ hfall _ => stays_closeIfLast hv last hfall)
    (wireSafeFrom_closeIfLast last rfl)

theorem fillProgram_wireSafe (count : BitVec 16) (last : Bool) (color : Colour) :
    wireSafeFrom c .start (fillProgram c count last color) := by
  have hlast : wireSafeFrom c ⟨some false, false, true⟩ (closeIfLast c last) := wireSafeFrom_closeIfLast last rfl
  have hclose : (closeIfLast c last)[0]? ≠ some .select := by cases last <;> simp [closeIfLast, closeStmts]
  rw [fillProgram, List.append_assoc, List.append_assoc]
  refine wireSafeFrom_openData hv rfl (by simp) ⟨?_, ?_⟩ <;> split
  · exact hclose
  · simp [Stmt.wireSafe, fillLoop, shiftStmts, bitStmts]
  · exact hlast
  · rw [fillLoop, List.append_assoc]
    exact wireSafeFrom_shiftStmts hv _ (fun _ hfall hsclk => ⟨hsclk, stays_closeIfLast hv last hfall⟩) ⟨hclose, hlast⟩

/-- Every op's micro-program keeps the wire guarantees, statement by statement. -/
theorem programOf_wireSafe (i : Instr) : wireSafeFrom c .start (programOf c i) := by
  cases i with
  | nop => trivial
  | cmd byte =>
    simp only [programOf, cmdProgram, List.append_assoc]
    refine wireSafeFrom_autoClose rfl (by simp [openStmts]) (fun _ hrise => stays_openStmts false _ hrise) ?_
    refine wireSafeFrom_openStmts hv false rfl rfl (by simp [shiftStmts, bitStmts]) ?_
    refine wireSafeFrom_shiftStmts hv byte (fun _ hfall _ => stays_closeStmts hv hfall) ?_
    exact wireSafeFrom_closeStmts (rest := []) rfl (fun _ _ => trivial) trivial
  | data last byte => exact sendByteProgram_wireSafe hv last byte
  | pix last left right => exact sendByteProgram_wireSafe hv last _
  | fill count last color => exact fillProgram_wireSafe hv count last color
  | reset | waitidle | delay ms =>
    refine wireSafeFrom_autoClose rfl (by simp [waitMs]) (fun _ _ => ?_) ?_ <;>
      simp [waitMs, wireSafeFrom, Stmt.wireSafe, Stays]

end

/-- `wireSafeFrom` read at each statement. -/
theorem wireSafeFrom_at {c : Config} {p : List Stmt} {e : Expect} (h : wireSafeFrom c e p) :
    ∀ {pc : Nat} {st : Stmt} {rest : List Stmt}, p.drop pc = st :: rest →
      st.wireSafe c ((p.take pc).foldl Expect.after e) rest := by
  induction p generalizing e with
  | nil => simp
  | cons st' p ih =>
    obtain ⟨hhead, htail⟩ := h
    intro pc st rest hdrop
    cases pc with
    | zero =>
      obtain ⟨rfl, rfl⟩ := List.cons.inj hdrop
      exact hhead
    | succ pc => exact ih htail hdrop

/-! ### The wire over a segment -/

/-- What the wire guarantees read of a state is as it was: no statement has driven the wire yet. -/
structure Undriven (s t : State) : Prop where
  csN : t.csN = s.csN
  dc : t.dc = s.dc
  sclk : t.sclk = s.sclk
  mosi : t.mosi = s.mosi
  tCsRise : t.tCsRise = s.tCsRise
  cycle : t.cycle = s.cycle

theorem Undriven.refl (s : State) : Undriven s s := ⟨rfl, rfl, rfl, rfl, rfl, rfl⟩

theorem Undriven.trans {s t u : State} (h : Undriven s t) (h' : Undriven t u) : Undriven s u :=
  ⟨h'.csN.trans h.csN, h'.dc.trans h.dc, h'.sclk.trans h.sclk, h'.mosi.trans h.mosi, h'.tCsRise.trans h.tCsRise,
    h'.cycle.trans h.cycle⟩

theorem Undriven.guarantee {s t : State} (h : Undriven s t) : WireGuarantee s t where
  dc_changes_deselected hne := absurd h.dc hne
  selected_after_gap hhigh hlow := by simp [h.csN, hhigh] at hlow
  clock_low_at_select hne := absurd h.csN hne
  mosi_changes_clock_low hne := absurd h.mosi hne

/-- The guarantees read four pins of the later state. -/
theorem WireGuarantee.congr {s t u : State} (h : WireGuarantee s t) (hcs : u.csN = t.csN) (hdc : u.dc = t.dc)
    (hsclk : u.sclk = t.sclk) (hmosi : u.mosi = t.mosi) : WireGuarantee s u := by
  obtain ⟨h1, h2, h3, h4⟩ := h
  exact ⟨hdc ▸ hcs ▸ h1, hcs ▸ h2, hcs ▸ hsclk ▸ h3, hmosi ▸ hsclk ▸ h4⟩

theorem WireGuarantee.of_undriven {s t u : State} (h : WireGuarantee s t) (h' : Undriven t u) : WireGuarantee s u :=
  h.congr h'.csN h'.dc h'.sclk h'.mosi

theorem pollOnce_undriven (pc : Nat) (s : State) : Undriven s (pollOnce pc s) := by
  unfold pollOnce
  split <;> constructor <;> rfl

theorem pollAgain_undriven (pc : Nat) (s : State) : Undriven s (pollAgain pc s) := by
  unfold pollAgain
  split
  · constructor <;> rfl
  · exact .trans (by constructor <;> rfl) (pollOnce_undriven pc s.slept)

/-- `Stays` reads the timestamps, SCLK and the edge. -/
theorem Stays.congr {s t : State} (hu : Undriven s t) (hfall : t.tSclkFall = s.tSclkFall) {p : List Stmt}
    (h : Stays s p) : Stays t p := by
  induction p with
  | nil => trivial
  | cons st p ih =>
    cases st with
    | wait n => exact h.imp id ih
    | waitRise n => simpa [Stays, hu.tCsRise, hu.cycle] using h
    | waitFall n => simpa [Stays, hfall, hu.cycle] using h
    | fillAgain v half back => exact ⟨hu.sclk.trans h.1, ih h.2⟩
    | setRstN v => exact ih h
    | pollInit => exact ih h
    | sample | pollWake => trivial
    | skipIfHigh n | skipIfLow n | setDc v | select | deselect | bit v | sclkHigh | byteEnd | setRem n => exact h.elim

/-- How far a segment that began in `s` has come at statement `pc` of `p`: it has not driven the wire, and knows that
CS_N has been high for `T_CSW` where it may be lowered; or it has, within the guarantees, and will not again. -/
def WireProgress (s : State) (p : List Stmt) (pc : Nat) (t : State) : Prop :=
  (Undriven s t ∧ (p[pc]? = some .select → afterEdge s.tCsRise s.cfg.tCsw ≤ s.now)) ∨
  (WireGuarantee s t ∧ Stays t (p.drop pc))

theorem WireProgress.guarantee {s t : State} {p : List Stmt} {pc : Nat} (h : WireProgress s p pc t) :
    WireGuarantee s t := h.elim (fun h => h.1.guarantee) (fun h => h.1)

/-- A statement that finds the wire undriven leads on, or stops with the guarantees. -/
theorem doStmt_of_undriven {s t : State} {p : List Stmt} {pc : Nat} {st : Stmt} {rest : List Stmt}
    (hdrop : p.drop pc = st :: rest) (hsafe : st.wireSafe s.cfg (expectAt p pc) rest) (hpins : (expectAt p pc).Meets t)
    (h : Undriven s t) (hgap : st = .select → afterEdge s.tCsRise s.cfg.tCsw ≤ s.now) :
    (doStmt pc t st).leads (WireProgress s p) (WireGuarantee s) pc := by
  have hrest : p.drop (pc + 1) = rest := by rw [← List.tail_drop, hdrop, List.tail_cons]
  have hat : ∀ n, p[pc + 1 + n]? = rest[n]? := fun n => by rw [← hrest, List.getElem?_drop]
  have hgo : ∀ n t', rest[n]? ≠ some .select → Undriven t t' → WireProgress s p (pc + 1 + n) t' :=
    fun n t' hne hu => .inl ⟨h.trans hu, fun hsel => absurd ((hat n).symm.trans hsel) hne⟩
  have hdrive : ∀ t', WireGuarantee s t' → Stays t' rest → WireProgress s p (pc + 1) t' :=
    fun t' hw hs => .inr ⟨hw, hrest ▸ hs⟩
  obtain ⟨hcs, hsclk, -⟩ := hpins
  have hkept := h.guarantee
  cases st with
  | skipIfHigh n =>
    obtain ⟨hnext, hskip⟩ := hsafe
    simp only [doStmt]
    split
    · exact hgo n t hskip (.refl t)
    · exact hgo 0 t hnext (.refl t)
  | skipIfLow n =>
    obtain ⟨hnext, hskip⟩ := hsafe
    simp only [doStmt]
    split
    · exact hgo 0 t hnext (.refl t)
    · exact hgo n t hskip (.refl t)
  | wait n =>
    simp only [doStmt]
    split
    · exact hgo 0 t hsafe (.refl t)
    · exact hkept.congr rfl rfl rfl rfl
  | waitRise n =>
    simp only [doStmt, waitUntil]
    split
    · next hover =>
      refine .inl ⟨h, fun hsel => ?_⟩
      rw [← hsafe ((hat 0).symm.trans hsel), ← h.tCsRise]
      simpa [h.cycle] using hover
    · exact hkept.congr rfl rfl rfl rfl
  | waitFall n => exact waitUntil_leads (hgo 0 t hsafe (.refl t)) fun _ => hkept.congr rfl rfl rfl rfl
  | setDc v =>
    obtain ⟨hhigh, hstays⟩ := hsafe
    have hhigh' : s.csN = true := h.csN ▸ hcs true hhigh
    exact hdrive _ ⟨fun _ => ⟨hhigh', h.csN.trans hhigh'⟩, hkept.selected_after_gap, hkept.clock_low_at_select,
      hkept.mosi_changes_clock_low⟩ (hstays _)
  | select =>
    obtain ⟨hlow, hstays⟩ := hsafe
    have hlow' : t.sclk = false := hsclk.trans hlow
    exact hdrive _ ⟨fun hne => absurd h.dc hne, fun _ _ => hgap rfl, fun _ => ⟨h.sclk ▸ hlow', hlow'⟩,
      hkept.mosi_changes_clock_low⟩ (hstays _)
  | deselect =>
    obtain ⟨hlow, hstays⟩ := hsafe
    have hlow' : t.sclk = false := hsclk.trans hlow
    exact hdrive _ ⟨fun hne => absurd h.dc hne, fun _ hlow => by simp at hlow, fun _ => ⟨h.sclk ▸ hlow', hlow'⟩,
      hkept.mosi_changes_clock_low⟩ (hstays _ rfl)
  | bit v =>
    exact hdrive _ ⟨hkept.dc_changes_deselected, hkept.selected_after_gap, fun hne => absurd h.csN hne, fun _ => rfl⟩
      (hsafe _)
  | sclkHigh =>
    exact hdrive _ ⟨hkept.dc_changes_deselected, hkept.selected_after_gap, fun hne => absurd h.csN hne,
      fun hne => absurd h.mosi hne⟩ (hsafe _)
  | byteEnd =>
    exact hdrive _ ⟨hkept.dc_changes_deselected, hkept.selected_after_gap, fun hne => absurd h.csN hne,
      fun hne => absurd h.mosi hne⟩ (hsafe _ rfl rfl)
  | fillAgain v half back =>
    simp only [doStmt]
    split
    · exact hgo 0 _ hsafe ⟨rfl, rfl, rfl, rfl, rfl, rfl⟩
    · exact ⟨hkept.dc_changes_deselected, hkept.selected_after_gap, fun hne => absurd h.csN hne, fun _ => rfl⟩
  | setRem n | setRstN v | pollInit => exact hgo 0 _ hsafe ⟨rfl, rfl, rfl, rfl, rfl, rfl⟩
  | sample => exact hkept.of_undriven (pollOnce_undriven _ t)
  | pollWake => exact hkept.of_undriven (pollAgain_undriven _ t)

/-- A statement at which the wire has been driven and stays leads on so, or stops with the guarantees. -/
theorem doStmt_of_stays {s t : State} {p : List Stmt} {pc : Nat} {st : Stmt} {rest : List Stmt}
    (hdrop : p.drop pc = st :: rest) (h : WireGuarantee s t) (hstays : Stays t (st :: rest)) :
    (doStmt pc t st).leads (WireProgress s p) (WireGuarantee s) pc := by
  have hrest : p.drop (pc + 1) = rest := by rw [← List.tail_drop, hdrop, List.tail_cons]
  have hgo : ∀ t', Undriven t t' → t'.tSclkFall = t.tSclkFall → Stays t rest → WireProgress s p (pc + 1) t' :=
    fun t' hu hfall hs => .inr ⟨h.of_undriven hu, hrest ▸ hs.congr hu hfall⟩
  cases st with
  | wait n =>
    simp only [doStmt]
    split
    · next hz => exact hgo t (.refl t) rfl (hstays.resolve_left (fun hne => hne hz))
    · exact h.congr rfl rfl rfl rfl
  | waitRise n | waitFall n =>
    simp only [doStmt, waitUntil]
    rw [if_neg (Nat.not_le_of_lt hstays)]
    exact h.congr rfl rfl rfl rfl
  | fillAgain v half back =>
    obtain ⟨hlow, hstays⟩ := hstays
    simp only [doStmt]
    split
    · exact hgo _ ⟨rfl, rfl, rfl, rfl, rfl, rfl⟩ rfl hstays
    · refine ⟨h.dc_changes_deselected, h.selected_after_gap, fun hne => ?_, fun _ => rfl⟩
      exact ⟨(h.clock_low_at_select hne).1, rfl⟩
  | setRstN v | pollInit => exact hgo _ ⟨rfl, rfl, rfl, rfl, rfl, rfl⟩ rfl hstays
  | sample => exact h.of_undriven (pollOnce_undriven _ t)
  | pollWake => exact h.of_undriven (pollAgain_undriven _ t)
  | skipIfHigh n | skipIfLow n | setDc v | select | deselect | bit v | sclkHigh | byteEnd | setRem n =>
    exact hstays.elim

/-- No segment begins by lowering CS_N. -/
theorem not_select_of_resumable {c : Config} {i : Instr} (hv : c.Valid) {pc : Nat}
    (hr : resumable (programOf c i) pc = true) : (programOf c i)[pc]? ≠ some .select := by
  intro hsel
  cases pc with
  | zero =>
    cases i <;> simp [programOf, nopProgram, cmdProgram, dataProgram, pixProgram, sendByteProgram, fillProgram,
      resetProgram, waitidleProgram, delayProgram, autoClose, openData] at hsel
  | succ pc =>
    simp only [resumable, hsel, Nat.add_sub_cancel] at hr
    split at hr
    · next n hwait =>
      have hdrop := List.drop_eq_getElem_cons (List.getElem?_eq_some_iff.mp hwait).1
      rw [(List.getElem?_eq_some_iff.mp hwait).2] at hdrop
      have hnext : ((programOf c i).drop (pc + 1))[0]? ≠ some .select :=
        wireSafeFrom_at (programOf_wireSafe hv i) hdrop
      exact hnext (by rw [List.getElem?_drop]; exact hsel)
    · simp at hr

/-- Every statement of an op's segment leads on within the guarantees, or stops with them. -/
theorem doStmt_wireProgress {i : Instr} {s t : State} (hv : s.cfg.Valid) {pc : Nat} {st : Stmt}
    (hst : (programOf s.cfg i)[pc]? = some st) (hknown : Known s.cfg (programOf s.cfg i) pc t)
    (h : WireProgress s (programOf s.cfg i) pc t) :
    (doStmt pc t st).leads (WireProgress s (programOf s.cfg i)) (WireGuarantee s) pc := by
  obtain ⟨hlt, hget⟩ := List.getElem?_eq_some_iff.mp hst
  have hdrop := List.drop_eq_getElem_cons hlt
  rw [hget] at hdrop
  obtain ⟨hu, hgap⟩ | ⟨hw, hstays⟩ := h
  · exact doStmt_of_undriven hdrop (wireSafeFrom_at (programOf_wireSafe hv i) hdrop) hknown.2 hu
      fun hsel => hgap (hsel ▸ hst)
  · exact doStmt_of_stays hdrop hw (hdrop ▸ hstays)

/-- Two things that statements lead on from can be followed together. -/
theorem Flow.leads.and {P P' : Nat → State → Prop} {Q Q' : State → Prop} {pc : Nat} {f : Flow} (h : f.leads P Q pc)
    (h' : f.leads P' Q' pc) : f.leads (fun pc s => P pc s ∧ P' pc s) (fun s => Q s ∧ Q' s) pc := by
  cases f <;> exact ⟨h, h'⟩

/-- A segment of an op that is on track keeps the wire guarantees. -/
theorem runProgram_guarantee {i : Instr} {s : State} {r : Resume} (hv : s.cfg.Valid) (hk : s.k = some r)
    (h : onTrack (programOf s.cfg i) r.pc s) : WireGuarantee s (runProgram (programOf s.cfg i) s) := by
  obtain ⟨hr, hpins⟩ := onTrack_iff.mp h
  have hp := programOf_pinsAgree s.cfg i
  have hboth := runProgram_rule
    (P := fun pc t => Known s.cfg (programOf s.cfg i) pc t ∧ WireProgress s (programOf s.cfg i) pc t)
    (Q := fun t => Settled (programOf s.cfg i) t ∧ WireGuarantee s t)
    (fun pc st t hst ⟨hknown, hprogress⟩ =>
      (doStmt_settles hv hp (programOf_allowed _ i st (List.mem_of_getElem? hst)) hst hknown).and
        (doStmt_wireProgress hv hst hknown hprogress))
    (fun _ t hlen ⟨⟨_, hpins'⟩, hprogress⟩ =>
      ⟨settled_of_ended rfl (Expect.Meets.boundary (s := t) hpins' (pinsAgree_end hp hlen)),
        hprogress.guarantee.congr rfl rfl rfl rfl⟩)
    hk ⟨⟨rfl, hpins⟩, .inl ⟨.refl s, fun hsel => absurd hsel (not_select_of_resumable hv hr)⟩⟩
  exact hboth.2

/-- CLOSE raises CS_N with SCLK low, or only waits (40_framer.md R141). -/
theorem runClose_guarantee {s : State} {w : Nat} (hk : s.k = some ⟨w, 0⟩) (hsclk : s.sclk = false) :
    WireGuarantee s (runClose s) := by
  rw [runClose_eq hk]
  split
  · exact ⟨fun hne => absurd rfl hne, fun _ hlow => by simp at hlow, fun _ => ⟨hsclk, hsclk⟩, fun hne => absurd rfl hne⟩
  · exact (Undriven.refl s).guarantee.congr rfl rfl rfl rfl

/-- The segment of a block with the invariant keeps the wire guarantees. -/
theorem segmentOf_guarantee {s : State} (hv : s.cfg.Valid) (hi : Inv s) : WireGuarantee s (segmentOf s) := by
  obtain ⟨-, hseg⟩ | ⟨⟨w, pc⟩, hk, hrun⟩ := segmentOf_cases s
  · rw [hseg]
    exact (Undriven.refl s).guarantee
  · have htrack := hi.on_track _ hk
    obtain ⟨he, hseg⟩ | ⟨i, he, hd, hseg⟩ | ⟨-, -, hseg⟩ := hrun <;> rw [hseg]
    · obtain ⟨rfl, -, hsclk, -⟩ := (engineOnTrack_close he).mp htrack
      exact runClose_guarantee hk hsclk
    · exact runProgram_guarantee hv hk ((engineOnTrack_op he hd).mp htrack)
    · exact (Undriven.refl s).guarantee.congr rfl rfl rfl rfl

/-- The host's write and the rest of the edge leave the wire to the segment. -/
theorem finishEdge_guarantee {s : State} (hv : s.cfg.Valid) (hi : Inv s) (inp : Input) :
    WireGuarantee s (finishEdge inp s (afterSegment inp.access s)) := by
  have hvalid : (hostWrite inp.access s).cfg.Valid := by rwa [hostWrite_cfg]
  have hseg := segmentOf_guarantee hvalid (hi.hostWrite inp.access)
  obtain ⟨h1, h2, h3, h4⟩ := hseg.congr (finishEdge_csN inp s _) (finishEdge_dc inp s _) (finishEdge_sclk inp s _)
    (finishEdge_mosi inp s _)
  simp only [hostWrite_csN, hostWrite_dc, hostWrite_sclk, hostWrite_mosi, hostWrite_tCsRise, hostWrite_cfg, now_eq,
    hostWrite_cycle] at h1 h2 h3 h4
  exact ⟨h1, h2, h3, h4⟩

/-- Settles O32: at an edge only the segment drives the wire, and it drives it once, at levels the invariant knows. -/
theorem stepKeepsTheWireGuarantees : Obligations.StepKeepsTheWireGuarantees := by
  intro s t hinv hr hstep
  obtain ⟨hv, ⟨hrst, -⟩ | ⟨-, rfl⟩⟩ := step_next_cases hstep
  · simp [hr] at hrst
  · exact finishEdge_guarantee hv hinv s.input

end Sys2Proof.Machine
end

section
/-! The family 40_framer.md: the dispatch rule (R130), the step as the run of the decoded op, and CLOSE (R141). -/

namespace Sys2Proof.Machine

/-! ### The step runs the decoded op -/

/-- A segment that is due runs the op in `cur`. -/
theorem segmentOf_exec {s : State} {i : Instr} (he : s.eng = .exec) (hdue : s.due = true) (hd : decode s.cur = some i) :
    segmentOf s = runProgram (programOf s.cfg i) s := by
  simp [segmentOf, he, hdue, hd]

theorem segmentOf_close {s : State} (he : s.eng = .close) (hdue : s.due = true) : segmentOf s = runClose s := by
  simp [segmentOf, he, hdue]

@[simp] theorem hostWrite_due (a : Option Access) (s : State) : (hostWrite a s).due = s.due := by
  simp [State.due]

/-- Within the ranges and without block reset a step is an edge. -/
theorem step_run {s : State} (hv : s.cfg.Valid) (hr : s.input.rst = false) :
    step s = .next (finishEdge s.input s (afterSegment s.input.access s)) := by
  rw [step, if_pos hv, clockEdge_run hr]

/-- Settles O4: the host's write changes neither the running word nor when it is due. -/
theorem stepRunsTheDecodedOp : Obligations.StepRunsTheDecodedOp := by
  intro s i hv hr he hdue hd
  refine ⟨afterSegment s.input.access s, ?_, step_run hv hr⟩
  rw [exec_eq, afterSegment, segmentOf_exec (i := i) (by simpa) (by simpa) (by simpa)]

/-- The number of a word names it. -/
theorem ofNat_toNat_mod (w : Word) : BitVec.ofNat 32 (w.toNat % 2 ^ 32) = w := by
  rw [Nat.mod_eq_of_lt w.isLt, BitVec.ofNat_toNat, BitVec.setWidth_eq]

/-- Settles O5: the placed word is due at the next edge, and decodes to its op. -/
theorem stepRunsAPlacedWord : Obligations.StepRunsAPlacedWord := by
  intro s i hv hr hw
  have hcur : decode (s.withFetchWord 32 (encode i).toNat).cur = some i := by
    rw [State.withFetchWord, ofNat_toNat_mod]
    exact decode_encode hw
  refine ⟨by rw [decodeTableWord, if_pos (Nat.le_refl 32), ofNat_toNat_mod, decode_encode hw], ?_⟩
  exact stepRunsTheDecodedOp (s.withFetchWord 32 (encode i).toNat) i hv hr rfl
    (State.due_true rfl (Nat.le_refl _)) hcur

/-! ### The dispatch rule -/

section
variable {inp : Input} {before after : State}

/-- A free engine starts CLOSE while ERR = 1 and CS_N is low. -/
theorem finishEdge_close (hfree : engineFree before after = true) (hflush : flushAt before after inp.access = false)
    (herr : before.err = true) (hlow : after.csN = false) :
    (finishEdge inp before after).eng = .close ∧ (finishEdge inp before after).k = some ⟨after.now + 1, 0⟩ ∧
    (finishEdge inp before after).cur = after.cur := by
  simp [finishEdge_eng, finishEdge_k, finishEdge_cur, dispatchChoice, dispatchOp, hfree, hflush, herr, hlow]

/-- A free engine starts the head of the queue while ERR = 0 and EN = 1, and takes it from the queue. -/
theorem finishEdge_op {w : Word} {rest : List Word} (hfree : engineFree before after = true)
    (hflush : flushAt before after inp.access = false) (herr : before.err = false) (hen : before.en = true)
    (hq : before.q = w :: rest) :
    (finishEdge inp before after).eng = .exec ∧ (finishEdge inp before after).cur = w ∧
    (finishEdge inp before after).k = some ⟨after.now + 1, 0⟩ ∧
    (finishEdge inp before after).q.take rest.length = rest := by
  simp [finishEdge_eng, finishEdge_k, finishEdge_cur, finishEdge_q, dispatchChoice, dispatchOp, nextQueue, Start.isOp,
    hfree, hflush, herr, hen, hq]

/-- A free engine starts nothing in the other cases. -/
theorem finishEdge_nothing (hfree : engineFree before after = true)
    (hflush : flushAt before after inp.access = false)
    (h : before.err = true ∧ after.csN = true ∨ before.err = false ∧ (before.en = false ∨ before.q = [])) :
    (finishEdge inp before after).eng = .idle ∧ (finishEdge inp before after).k = none := by
  have hstart : dispatchChoice before after false = .nothing := by
    obtain ⟨herr, hhigh⟩ | ⟨herr, hen | hq⟩ := h
    · simp [dispatchChoice, herr, hhigh]
    · simp [dispatchChoice, herr, hen]
    · simp [dispatchChoice, herr, hq]
  simp [finishEdge_eng, finishEdge_k, dispatchOp, hfree, hflush, hstart]

end

/-- Settles O26: the engine after the edge is what the rule chooses of the state before the edge and of CS_N as the
segment left it. -/
theorem dispatchFollowsItsRule : Obligations.DispatchFollowsItsRule := by
  intro s t hr hstep after flush
  obtain ⟨-, ⟨hrst, -⟩ | ⟨-, rfl⟩⟩ := step_next_cases hstep
  · simp [hr] at hrst
  have hcur : after.cur = s.cur := ((segmentOf_shell _).cur).trans (hostWrite_cur _ s)
  simp only [finishEdge_csN, finishEdge_cycle]
  refine ⟨fun hbusy => ?_, fun hfree => ⟨fun hflush => ?_, fun hflush herr hlow => ?_,
    fun hflush herr hen w rest hq => ?_, fun hflush h => finishEdge_nothing hfree hflush h⟩⟩
  · obtain ⟨heng, hcur, hk⟩ := finishEdge_of_not_free (inp := s.input) hbusy
    exact ⟨heng, hk, hcur⟩
  · obtain ⟨hq, -, hidle⟩ := finishEdge_of_flush (inp := s.input) hflush
    obtain ⟨heng, hk⟩ := hidle hfree
    exact ⟨heng, hk, hq⟩
  · obtain ⟨heng, hk, hcur'⟩ := finishEdge_close (inp := s.input) hfree hflush herr hlow
    exact ⟨heng, hk, hcur'.trans hcur⟩
  · exact finishEdge_op (inp := s.input) hfree hflush herr hen hq

/-! ### CLOSE -/

/-- Settles O28: CLOSE looks at the hold time in the state with the host's write, which does not touch the framer. -/
theorem closeRaisesChipSelect : Obligations.CloseRaisesChipSelect := by
  intro s hv hr he hk
  have hdue : s.due = true := State.due_true hk (Nat.le_refl _)
  have hseg : afterSegment s.input.access s = runClose (hostWrite s.input.access s) :=
    segmentOf_close (by simpa using he) (by simpa using hdue)
  have hrun := runClose_eq (s := hostWrite s.input.access s) (w := s.cycle + 1) (by simpa using hk)
  simp only [hostWrite_tSclkFall, hostWrite_cfg, now_eq, hostWrite_cycle] at hrun
  refine ⟨fun hover => ⟨_, step_run hv hr, ?_⟩, fun hahead => ⟨_, step_run hv hr, ?_⟩⟩
  · rw [now_eq] at hover
    rw [hseg, hrun, if_pos hover, segmentOf_close he hdue, runClose_eq hk, now_eq, if_pos hover]
    simp
  · rw [now_eq] at hahead
    rw [hseg, hrun, if_neg (Nat.not_le_of_lt hahead)]
    have hbusy : engineFree s ((hostWrite s.input.access s).suspend (afterEdge s.tSclkFall s.cfg.tCsh) 0) = false := by
      simp [engineFree, he]
    obtain ⟨heng, hcur, hk'⟩ := finishEdge_of_not_free (inp := s.input) hbusy
    refine ⟨by simp, heng.trans (by simpa using he), hk'.trans (by simp), hcur.trans (by simp)⟩

end Sys2Proof.Machine
end

section
/-! The family 40_framer.md: what a segment of NOP, CMD or a data op leaves as it was, and the first and the last
segment of every op. -/

namespace Sys2Proof.Config.Valid

theorem rstH1Ms_pos {c : Config} (h : c.Valid) : 1 ≤ c.rstH1Ms := by
  obtain ⟨-, -, -, -, -, -, -, -, h, -⟩ := h; exact h

end Sys2Proof.Config.Valid

namespace Sys2Proof.Machine

/-! ### Frames -/

/-- Only WAIT_IDLE raises. -/
theorem doStmt_errorsKept {c : Config} {i : Instr} {st : Stmt} (hi : i ≠ .waitidle) (hst : st.allowedIn c i) (pc : Nat)
    (s : State) : ErrorsKept s (doStmt pc s st).state := by
  cases st with
  | pollWake => exact absurd hst hi
  | sample => exact absurd hst hi
  | waitRise n | waitFall n => exact waitUntil_keeps (P := ErrorsKept s) (.refl s) ⟨rfl, rfl, rfl, rfl, rfl⟩
  | skipIfHigh n | skipIfLow n | wait n | fillAgain v half back =>
    simp only [doStmt]; split <;> exact ⟨rfl, rfl, rfl, rfl, rfl⟩
  | _ => exact ⟨rfl, rfl, rfl, rfl, rfl⟩

/-- A statement that writes `rem`: only FILL has one. -/
def Stmt.writesRem : Stmt → Bool
  | .setRem _ => true
  | .fillAgain _ _ _ => true
  | _ => false

theorem programOf_keeps_rem (c : Config) {i : Instr} (hi : ∀ n l x, i ≠ .fill n l x) :
    ∀ st ∈ programOf c i, st.writesRem = false := by
  have hall : (programOf c i).all (fun st => !st.writesRem) = true := by
    cases i with
    | fill n l x => exact absurd rfl (hi n l x)
    | data last b | pix last x y => cases last <;> rfl
    | nop | cmd b | reset | waitidle | delay m => rfl
  simpa using hall

theorem doStmt_rem {st : Stmt} (hst : st.writesRem = false) (pc : Nat) (s : State) :
    (doStmt pc s st).state.rem = s.rem := by
  cases st with
  | setRem n | fillAgain v half back => simp [Stmt.writesRem] at hst
  | waitRise n | waitFall n => exact waitUntil_keeps (P := fun t => t.rem = s.rem) rfl rfl
  | skipIfHigh n | skipIfLow n | wait n => simp only [doStmt]; split <;> rfl
  | sample => exact pollOnce_rem _ s
  | pollWake => exact pollAgain_rem _ s
  | _ => rfl

section
variable {s t : State} {i : Instr} (h : exec i s = .next t)
include h

theorem exec_next : t = runProgram (programOf s.cfg i) s :=
  (Host.Outcome.next.inj ((exec_eq i s).symm.trans h)).symm

/-- What each statement that `i` may have keeps, and the end of the op too, is kept by a segment of `i`. -/
theorem exec_keeps {P : State → Prop} (hstmt : ∀ st ∈ programOf s.cfg i, ∀ pc s', P s' → P (doStmt pc s' st).state)
    (hend : ∀ s', P s' → P s'.endOp) (hs : P s) : P t :=
  exec_next h ▸ runProgram_keeps _ hstmt hend s hs

theorem exec_shell : Untouched s t := exec_next h ▸ runProgram_shell _ s

theorem exec_errorsKept (hi : i ≠ .waitidle) : ErrorsKept s t :=
  exec_keeps h (fun st hst pc s' hs => hs.trans (doStmt_errorsKept hi (programOf_allowed _ i st hst) pc s'))
    (fun _ hs => hs.trans ⟨rfl, rfl, rfl, rfl, rfl⟩) (ErrorsKept.refl s)

theorem exec_waitKept (hi : i ≠ .waitidle) : WaitKept s t :=
  exec_keeps h (fun st hst pc s' hs => hs.trans (doStmt_waitKept hi (programOf_allowed _ i st hst) pc s'))
    (fun _ hs => hs.trans ⟨rfl, rfl, rfl⟩) (WaitKept.refl s)

theorem exec_rstN (hi : i ≠ .reset) : t.rstN = s.rstN :=
  exec_keeps h (P := fun u => u.rstN = s.rstN)
    (fun st hst pc s' hs => (doStmt_rstN hi (programOf_allowed _ i st hst) pc s').trans hs) (fun _ hs => hs) rfl

theorem exec_rem (hi : ∀ n l x, i ≠ .fill n l x) : t.rem = s.rem :=
  exec_keeps h (P := fun u => u.rem = s.rem)
    (fun st hst pc s' hs => (doStmt_rem (programOf_keeps_rem _ hi st hst) pc s').trans hs) (fun _ hs => hs) rfl

end

/-- Settles O36: none of the four has a statement of WAIT_IDLE or RESET, and only FILL has one that writes `rem`. -/
theorem framerOpsFrame : Obligations.FramerOpsFrame := by
  intro s t i hi h
  have hwait : i ≠ .waitidle := by rintro rfl; simp at hi
  have hreset : i ≠ .reset := by rintro rfl; simp at hi
  exact ⟨exec_shell h, exec_errorsKept h hwait, exec_waitKept h hwait, exec_rstN h hreset, exec_rem h⟩

/-! ### First and last segments -/

/-- A meaning runs its micro-program from the statement the continuation names. -/
theorem exec_at {s : State} {w pc : Nat} (hk : s.k = some ⟨w, pc⟩) (i : Instr) :
    exec i s = .next (runFrom pc 0 ((programOf s.cfg i).drop pc) s) := by
  rw [exec_eq, runProgram_at hk]

theorem exec_nop {s : State} (h : startsNext s) : exec .nop s = .next { s with k := none } := exec_at h .nop

/-- Settles O41: NOP has no statement, and the legality check leaves opcode 0x0 the one word. -/
theorem nopEndsInItsFirstSegment : Obligations.NopEndsInItsFirstSegment := by
  refine ⟨fun s h => exec_nop h, fun w ho => ?_⟩
  have hlegal : legal w = (w == 0#32) := by simp [legal, ho]
  refine ⟨?_, fun hne => by simpa [hlegal] using hne⟩
  rw [decode_eq_some_iff]
  exact ⟨fun ⟨hw, _⟩ => hw.symm, fun hw => ⟨hw.symm, rfl⟩⟩

section
variable {pc : Nat} {s : State} {rest : List Stmt}

theorem runFrom_wait {n : Nat} (hn : n ≠ 0) :
    runFrom pc 0 (.wait n :: rest) s = s.suspend (s.now + n) (pc + 1) := by
  simp [runFrom_cons, doStmt, hn]

/-- `open(v)` with the D/C hold over: D/C is set up (R131). -/
theorem runFrom_openStmts (hdcs : 1 ≤ s.cfg.tDcs) (v : Bool) (hover : afterEdge s.tCsRise 1 ≤ s.now) :
    runFrom pc 0 (openStmts s.cfg v ++ rest) s = { s with dc := v, k := some ⟨s.now + s.cfg.tDcs, pc + 3⟩ } := by
  rw [openStmts, List.cons_append, runFrom_cons, doStmt, waitUntil, if_pos hover]
  exact runFrom_wait (Nat.ne_of_gt hdcs)

/-- `shift(b)` begins with bit 7 (R132). -/
theorem runFrom_shiftStmts (hhalf : 1 ≤ s.cfg.sckHalf) (b : Byte) :
    runFrom pc 0 (shiftStmts s.cfg b ++ rest) s =
      { s with sclk := false, mosi := b.getLsbD 7, k := some ⟨s.now + s.cfg.sckHalf, pc + 2⟩ } :=
  runFrom_wait (s := { s with sclk := false, mosi := b.getLsbD 7 }) (Nat.ne_of_gt hhalf)

/-- `close()` with the hold time over, at the end of an op (R133). -/
theorem runFrom_closeStmts (hover : afterEdge s.tSclkFall s.cfg.tCsh ≤ s.now) :
    runFrom pc 0 (closeStmts s.cfg) s = { s with csN := true, tCsRise := some s.now, k := none } := by
  rw [closeStmts, runFrom_cons, doStmt, waitUntil, if_pos hover]
  rfl

/-- An auto-close passes when CS_N is high already (R135). -/
theorem runFrom_autoClose (hhigh : s.csN = true) (p : List Stmt) :
    runFrom 0 0 (autoClose s.cfg ++ p) s = runFrom 3 0 p s := by
  rw [autoClose, List.cons_append, runFrom_cons, doStmt, if_pos hhigh]
  rfl

/-- A data op opens a transaction when CS_N is high (R137). -/
theorem runFrom_openData_high (hhigh : s.csN = true) (p : List Stmt) :
    runFrom 0 0 (openData s.cfg ++ p) s = runFrom 1 0 (openStmts s.cfg true ++ p) s := by
  rw [openData, List.cons_append, runFrom_cons, doStmt, if_pos hhigh]

/-- A data op goes on with the transaction that is open (R137). -/
theorem runFrom_openData_low (hlow : s.csN = false) (p : List Stmt) :
    runFrom 0 0 (openData s.cfg ++ p) s = runFrom 7 0 p s := by
  rw [openData, List.cons_append, runFrom_cons, doStmt, hlow]
  rfl

end

/-! The ends of the micro-programs, by the indexes of their last segments. -/

theorem cmdProgram_drop (c : Config) (b : Byte) : (cmdProgram c b).drop 42 = closeStmts c := rfl

theorem sendByteProgram_drop_close (c : Config) (b : Byte) : (sendByteProgram c true b).drop 40 = closeStmts c := rfl

theorem sendByteProgram_drop_end (c : Config) (b : Byte) : (sendByteProgram c false b).drop 39 = [.byteEnd] := rfl

theorem fillProgram_eq (c : Config) {n : BitVec 16} (hn : n ≠ 0) (l : Bool) (x : Colour) :
    fillProgram c n l x = openData c ++ .setRem n.toNat :: (shiftStmts c (fillByte x) ++
      .fillAgain ((fillByte x).getLsbD 7) c.sckHalf 10 :: closeIfLast c l) := by
  rw [fillProgram, if_neg hn, fillLoop]
  simp [openData, openStmts]

theorem fillProgram_drop_foot (c : Config) {n : BitVec 16} (hn : n ≠ 0) (l : Bool) (x : Colour) :
    (fillProgram c n l x).drop 40 =
      .byteEnd :: .fillAgain ((fillByte x).getLsbD 7) c.sckHalf 10 :: closeIfLast c l := by
  rw [fillProgram_eq c hn]
  rfl

theorem fillProgram_drop_close (c : Config) {n : BitVec 16} (hn : n ≠ 0) (x : Colour) :
    (fillProgram c n true x).drop 42 = closeStmts c := by
  rw [fillProgram_eq c hn]
  rfl

/-- A packed byte has bit 7 clear (41_codec.md R161, R163). -/
theorem pack_bit7 : ∀ x y : Colour, (pack x y).getLsbD 7 = false := by decide

theorem fillByte_bit7 (x : Colour) : (fillByte x).getLsbD 7 = false := pack_bit7 x x

/-- Settles O39: each first segment is run statement by statement to its first wait. -/
theorem opsBeginAsWritten : Obligations.OpsBeginAsWritten := by
  intro s hv h
  have hdcs := hv.tDcs_pos
  have hhalf := hv.sckHalf_pos
  refine ⟨exec_nop h, fun hhigh hover => ⟨fun b => ?_, ?_⟩,
    fun hlow => ⟨fun l b => ?_, fun l x y => ?_, fun n l x hn => ?_⟩, fun hhigh => ⟨?_, fun m => ?_⟩⟩
  · rw [exec_at h, List.drop_zero, programOf, cmdProgram, List.append_assoc, List.append_assoc,
      runFrom_autoClose hhigh, runFrom_openStmts hdcs false hover]
  · have hopen : ∀ p, runFrom 0 0 (openData s.cfg ++ p) s = { s with dc := true, k := some ⟨s.now + s.cfg.tDcs, 4⟩ } :=
      fun p => by rw [runFrom_openData_high hhigh, runFrom_openStmts hdcs true hover]
    rintro i (⟨l, b, rfl⟩ | ⟨l, x, y, rfl⟩ | ⟨n, l, x, rfl⟩) <;> rw [exec_at h, List.drop_zero, programOf]
    · rw [dataProgram, sendByteProgram, List.append_assoc, hopen]
    · rw [pixProgram, sendByteProgram, List.append_assoc, hopen]
    · rw [fillProgram, List.append_assoc, List.append_assoc, hopen]
  · rw [exec_at h, List.drop_zero, programOf, dataProgram, sendByteProgram, List.append_assoc,
      runFrom_openData_low hlow, runFrom_shiftStmts hhalf]
  · rw [exec_at h, List.drop_zero, programOf, pixProgram, sendByteProgram, List.append_assoc,
      runFrom_openData_low hlow, runFrom_shiftStmts hhalf, pack_bit7]
  · have hbyte := runFrom_shiftStmts (pc := 8) (s := { s with rem := n.toNat }) hhalf (fillByte x)
      (rest := .fillAgain ((fillByte x).getLsbD 7) s.cfg.sckHalf 10 :: closeIfLast s.cfg l)
    rw [fillByte_bit7] at hbyte
    rw [exec_at h, List.drop_zero, programOf, fillProgram_eq s.cfg hn, runFrom_openData_low hlow, fillByte_bit7]
    exact congrArg _ hbyte
  · have hpos : s.cfg.rstH1Ms * s.cfg.tickDiv ≠ 0 := Nat.ne_of_gt (Nat.mul_pos hv.rstH1Ms_pos hv.tickDiv_pos)
    rw [exec_at h, List.drop_zero, programOf, resetProgram, runFrom_autoClose hhigh]
    exact congrArg _ (runFrom_wait (s := { s with rstN := true }) hpos)
  · have hpos : m.toNat * s.cfg.tickDiv = 0 ↔ m = 0 := by
      have htick := hv.tickDiv_pos
      have hzero : m = 0 ↔ m.toNat = 0 := BitVec.toNat_inj.symm
      rw [Nat.mul_eq_zero, hzero]
      omega
    rw [exec_at h, List.drop_zero, programOf, delayProgram, runFrom_autoClose hhigh, waitMs]
    by_cases hm : m = 0
    · rw [if_pos hm, hpos.mpr hm]
      rfl
    · rw [if_neg hm, runFrom_wait (mt hpos.mp hm)]
      rfl

/-- FILL's foot with its last byte sent, LAST = 0 (41_codec.md R166). -/
theorem runFrom_fillAgain_over {pc half back : Nat} {s : State} (v : Bool) (rest : List Stmt) (h : s.rem ≤ 1) :
    runFrom pc 0 (.fillAgain v half back :: rest) s = runFrom (pc + 1) 0 rest { s with rem := 0 } := by
  rw [runFrom_cons, doStmt, if_pos (Nat.sub_eq_zero_of_le h)]

/-- FILL's foot with bytes left. -/
theorem runFrom_fillAgain_more {pc half back : Nat} {s : State} (v : Bool) (rest : List Stmt) (h : 1 < s.rem) :
    runFrom pc 0 (.fillAgain v half back :: rest) s =
      { s with rem := s.rem - 1, sclk := false, mosi := v, k := some ⟨s.now + half, back⟩ } := by
  rw [runFrom_cons, doStmt, if_neg (Nat.sub_ne_zero_of_lt h)]
  rfl

/-- Settles O40: each last segment is that of the statements that are left. -/
theorem opsEndAsWritten : Obligations.OpsEndAsWritten := by
  intro s w hv
  refine ⟨fun hover => ⟨fun hk b => ?_, fun hk b x y => ⟨?_, ?_⟩, fun hk n x hn => ?_⟩, fun hk b x y => ⟨?_, ?_⟩,
    fun hk n l x hn => ⟨fun hlast => ?_, fun hmore => ?_⟩, fun hk => exec_at hk .reset,
    fun hk m => exec_at hk (.delay m)⟩
  · rw [exec_at hk, programOf, cmdProgram_drop, runFrom_closeStmts hover]
  · rw [exec_at hk, programOf, dataProgram, sendByteProgram_drop_close, runFrom_closeStmts hover]
  · rw [exec_at hk, programOf, pixProgram, sendByteProgram_drop_close, runFrom_closeStmts hover]
  · rw [exec_at hk, programOf, fillProgram_drop_close s.cfg hn, runFrom_closeStmts hover]
  · rw [exec_at hk, programOf, dataProgram, sendByteProgram_drop_end]
    rfl
  · rw [exec_at hk, programOf, pixProgram, sendByteProgram_drop_end]
    rfl
  · rw [exec_at hk, programOf, fillProgram_drop_foot s.cfg hn]
    exact congrArg _ (runFrom_fillAgain_over (s := { s with sclk := false, tSclkFall := some s.now }) _ [] hlast)
  · rw [exec_at hk, programOf, fillProgram_drop_foot s.cfg hn, fillByte_bit7]
    exact congrArg _ (runFrom_fillAgain_more (s := { s with sclk := false, tSclkFall := some s.now }) _ _ hmore)

end Sys2Proof.Machine
end

section
/-! The family 40_framer.md: a wire trace read cycle by cycle, and an op on its own followed from statement to
statement. -/

namespace Sys2Proof.Machine

/-! ### A wire trace read cycle by cycle -/

/-- How far a wire trace has been read: the transactions that have ended, the one under way with its bits so far, and
the level of SCLK in the last cycle. -/
structure Reading where
  ended : List Transaction
  underway : Option (TransactionKind × List Bool)
  sclk : Bool

/-- Before the first cycle, whose clock is no rising edge when it is high (log entry 9). -/
def Reading.start : Reading := ⟨[], none, true⟩

/-- The transaction under way, taken as ended. -/
def endedBy : Option (TransactionKind × List Bool) → List Transaction
  | none => []
  | some (k, bits) => [⟨k, bytesOfBits bits⟩]

/-- One more cycle is read. -/
def Reading.next (r : Reading) (p : Pins) : Reading where
  ended := if p.csN then r.ended ++ endedBy r.underway else r.ended
  underway := underwayAfter r.underway r.sclk p
  sclk := p.sclk

/-- The trace that has been read. -/
def Reading.trace (r : Reading) : List Transaction := r.ended ++ endedBy r.underway

/-- `traceFrom` reads its cycles one after another. -/
theorem trace_foldl_next (ps : List Pins) : ∀ r : Reading,
    (ps.foldl Reading.next r).trace = r.ended ++ traceFrom r.underway r.sclk ps := by
  induction ps with
  | nil =>
    rintro ⟨ended, underway, sclk⟩
    cases underway <;> rfl
  | cons p ps ih =>
    rintro ⟨ended, underway, sclk⟩
    rw [List.foldl_cons, ih]
    cases hp : p.csN with
    | true => cases underway <;> simp [Reading.next, underwayAfter, endedBy, traceFrom, hp]
    | false => cases underway <;> simp [Reading.next, underwayAfter, traceFrom, hp]

theorem wireTrace_eq (ps : List Pins) : wireTrace ps = (ps.foldl Reading.next .start).trace := by
  rw [trace_foldl_next]
  rfl

/-- Levels that stay are read once. -/
@[simp] theorem Reading.next_next (r : Reading) (p : Pins) : (r.next p).next p = r.next p := by
  cases hp : p.csN <;> simp [Reading.next, underwayAfter, endedBy, hp]

/-- Of cycles with CS_N high only the last is remembered. -/
theorem Reading.next_next_high {p p' : Pins} (r : Reading) (h : p.csN = true) (h' : p'.csN = true) :
    (r.next p).next p' = r.next p' := by
  simp [Reading.next, underwayAfter, endedBy, h, h']

theorem foldl_next_replicate (r : Reading) (p : Pins) (n : Nat) :
    (List.replicate (n + 1) p).foldl Reading.next r = r.next p := by
  induction n with
  | zero => rfl
  | succ n ih => rw [List.replicate_succ', List.foldl_append, ih]; exact r.next_next p

/-! ### What the framer and RST_N hold -/

/-- The pins, the framer's timestamps and `rem`: what the statements of every op but WAIT_IDLE read and write. -/
structure Wires where
  csN : Bool
  dc : Bool
  sclk : Bool
  mosi : Bool
  rstN : Bool
  tCsRise : Option Nat
  tSclkFall : Option Nat
  rem : Nat

def State.wires (s : State) : Wires := ⟨s.csN, s.dc, s.sclk, s.mosi, s.rstN, s.tCsRise, s.tSclkFall, s.rem⟩

def Wires.pins (f : Wires) : Pins := ⟨f.csN, f.dc, f.sclk, f.mosi, f.rstN⟩

theorem levels_eq (s : State) : s.levels = s.wires.pins := rfl

theorem pass_wires (n : Nat) (s : State) : (s.pass n).wires = s.wires := by
  have h := State.pass_passed n s
  simp [State.wires, h.csN, h.dc, h.sclk, h.mosi, h.rstN, h.tCsRise, h.tSclkFall, h.rem]

/-! ### The pins of a run -/

/-- What the cycles of an op's run have shown. -/
def readingOf (i : Instr) (n : Nat) (s : State) : Reading := (opPins i n s).foldl Reading.next .start

theorem opPins_succ {i : Instr} {s t : State} (h : opEdge i s = .next t) (n : Nat) :
    opPins i (n + 1) s = s.levels :: opPins i n t := by
  simp only [opPins, h]

/-- The pins of a run and of its going on. -/
theorem opPins_add {i : Instr} (n m : Nat) : ∀ {s u t : State}, opRun i n s = .next u → opEdge i u = .next t →
    opPins i (n + 1 + m) s = opPins i n s ++ opPins i m t := by
  induction n with
  | zero =>
    intro s u t hrun hedge
    obtain rfl : s = u := Host.Outcome.next.inj hrun
    rw [Nat.zero_add, Nat.add_comm, opPins_succ hedge]
    rfl
  | succ n ih =>
    intro s u t hrun hedge
    obtain ⟨s', hs'⟩ := opEdge_next i s
    simp only [opRun, hs'] at hrun
    rw [Nat.add_right_comm, opPins_succ hs', opPins_succ hs', ih hrun hedge, List.cons_append]

/-- Until its wake edge an op shows the same pins. -/
theorem opPins_wait (i : Instr) (n : Nat) : ∀ {s : State} {w pc : Nat}, s.k = some ⟨w, pc⟩ → s.cycle + n < w →
    opPins i n s = List.replicate (n + 1) s.levels := by
  induction n with
  | zero => intro s w pc _ _; rfl
  | succ n ih =>
    intro s w pc hk hw
    have hd : s.due = false := State.due_false hk (by omega)
    have hlevels : (s.tick s.input.busy).levels = s.levels := rfl
    rw [opPins, opEdge_wait hd, List.replicate_succ, ← hlevels]
    exact congrArg _ (ih (w := w) (pc := pc) (by simpa using hk) (by simp; omega))

/-! ### An op followed from statement to statement -/

/-- The op `i`, starting in `s`, runs to the segment at edge `e` from the state `u`, and within it comes to statement
`pc` in the state `t`, the statements `rest` being left of its micro-program. -/
structure Segment (i : Instr) (s : State) (e pc : Nat) (rest : List Stmt) (u t : State) : Prop where
  run : opRun i (e - 1 - s.cycle) s = .next u
  ahead : s.cycle < e
  now : u.now = e
  due : u.due = true
  cfg : u.cfg = s.cfg
  shell : Untouched u t
  program : rest = (programOf s.cfg i).drop pc
  segment : runProgram (programOf u.cfg i) u = runFrom pc 0 rest t

theorem runFrom_skip (p : List Stmt) : ∀ pc n s, runFrom pc n p s = runFrom (pc + n) 0 (p.drop n) s := by
  induction p with
  | nil => intro pc n s; simp
  | cons st p ih =>
    intro pc n s
    cases n with
    | zero => rfl
    | succ n => rw [runFrom_skipped, ih, List.drop_succ_cons, Nat.add_right_comm, Nat.add_assoc]

section
variable {i : Instr} {s : State} {e pc : Nat} {st : Stmt} {rest : List Stmt} {u t : State}

/-- An op's first segment begins at its first statement. -/
theorem Segment.start (h : startsNext s) (i : Instr) : Segment i s s.now 0 (programOf s.cfg i) s s where
  run := by simp [opRun]
  ahead := by simp
  now := rfl
  due := State.due_true h (Nat.le_refl _)
  cfg := rfl
  shell := Untouched.refl s
  program := rfl
  segment := runProgram_at h _

theorem Segment.tail_program (h : Segment i s e pc (st :: rest) u t) : rest = (programOf s.cfg i).drop (pc + 1) := by
  rw [← List.tail_drop, ← h.program, List.tail_cons]

theorem Segment.go {t' : State} (h : Segment i s e pc (st :: rest) u t) (hst : doStmt pc t st = .go t') :
    Segment i s e (pc + 1) rest u t' where
  run := h.run
  ahead := h.ahead
  now := h.now
  due := h.due
  cfg := h.cfg
  shell := h.shell.trans (by simpa [hst] using doStmt_shell pc t st)
  program := h.tail_program
  segment := by rw [h.segment, runFrom_cons, hst]

theorem Segment.skip {n : Nat} {t' : State} (h : Segment i s e pc (st :: rest) u t)
    (hst : doStmt pc t st = .skip n t') : Segment i s e (pc + 1 + n) (rest.drop n) u t' where
  run := h.run
  ahead := h.ahead
  now := h.now
  due := h.due
  cfg := h.cfg
  shell := h.shell.trans (by simpa [hst] using doStmt_shell pc t st)
  program := by rw [h.tail_program, List.drop_drop]
  segment := by rw [h.segment, runFrom_cons, hst]; exact runFrom_skip rest (pc + 1) n t'

/-- A statement that waits ends the segment; the op goes on at its wake edge, in the state that has passed until then,
and the cycles between have shown the pins the segment left. -/
theorem Segment.stop {d pc' : Nat} (h : Segment i s e pc (st :: rest) u t) (hd : 1 ≤ d)
    (hst : doStmt pc t st = .stop (t.suspend (e + d) pc')) :
    ∃ u', Segment i s (e + d) pc' ((programOf s.cfg i).drop pc') u' u' ∧ u'.wires = t.wires ∧
      readingOf i (e + d - 1 - s.cycle) s = (readingOf i (e - 1 - s.cycle) s).next t.wires.pins := by
  have hahead := h.ahead
  have hnow := h.now
  rw [now_eq] at hnow
  have hedge : opEdge i u = .next ((t.suspend (e + d) pc').tick u.input.busy) := by
    rw [opEdge_due h.due, h.segment, runFrom_cons, hst]
  generalize hv : (t.suspend (e + d) pc').tick u.input.busy = v at hedge
  have hk : v.k = some ⟨e + d, pc'⟩ := by rw [← hv]; rfl
  have hcycle : v.cycle = e := by simp [← hv, h.shell.cycle, hnow]
  have hwires : v.wires = t.wires := by rw [← hv]; rfl
  have hcfg : v.cfg = s.cfg := by simp [← hv, h.shell.cfg, h.cfg]
  have hrun1 : opRun i 1 u = .next v := by simp [opRun, hedge]
  have hp := State.pass_passed (d - 1) v
  have hlen : e + d - 1 - s.cycle = e - 1 - s.cycle + 1 + (d - 1) := by omega
  refine ⟨v.pass (d - 1), ⟨?_, by omega, ?_, ?_, ?_, Untouched.refl _, rfl, ?_⟩, ?_, ?_⟩
  · rw [hlen]
    exact opRun_trans (opRun_trans h.run hrun1) (opRun_wait i _ hk (by omega))
  · rw [now_eq, hp.cycle]; omega
  · exact State.due_true (hp.k.trans hk) (by rw [hp.cycle]; omega)
  · exact hp.cfg.trans hcfg
  · rw [runProgram_at (hp.k.trans hk), hp.cfg, hcfg]
  · rw [pass_wires, hwires]
  · rw [readingOf, hlen, opPins_add _ _ h.run hedge, List.foldl_append, opPins_wait i _ hk (by omega),
      foldl_next_replicate, levels_eq, hwires]
    rfl

/-- At the end of its micro-program the op has ended. -/
theorem Segment.exec_end (h : Segment i s e pc [] u t) : exec i u = .next t.endOp := by
  rw [exec_eq, h.segment, runFrom_nil]

/-- The cycle after that edge is the last that is read of the op. -/
theorem Segment.reading_end (h : Segment i s e pc [] u t) :
    readingOf i (e - s.cycle) s = (readingOf i (e - 1 - s.cycle) s).next t.wires.pins := by
  have hahead := h.ahead
  have hedge : opEdge i u = .next (t.endOp.tick u.input.busy) := by rw [opEdge_due h.due, h.segment, runFrom_nil]
  have hlen : e - s.cycle = e - 1 - s.cycle + 1 + 0 := by omega
  rw [readingOf, hlen, opPins_add _ _ h.run hedge, List.foldl_append]
  rfl

end

/-! ### The same by what the wires hold -/

/-- The op `i`, starting in `s`, comes in the segment of edge `e` to statement `pc`, `rest` being left of its
micro-program, with the wires at `f`; the cycles before the edge have shown `r`. -/
def Reaches (i : Instr) (s : State) (e pc : Nat) (rest : List Stmt) (f : Wires) (r : Reading) : Prop :=
  ∃ u t, Segment i s e pc rest u t ∧ t.wires = f ∧ readingOf i (e - 1 - s.cycle) s = r

theorem reaches_start {s : State} (h : startsNext s) (i : Instr) :
    Reaches i s s.now 0 (programOf s.cfg i) s.wires (Reading.start.next s.wires.pins) :=
  ⟨s, s, Segment.start h i, rfl, by simp [readingOf, opPins, levels_eq]⟩

section
variable {i : Instr} {s : State} {e pc : Nat} {st : Stmt} {rest : List Stmt} {f f' : Wires} {r : Reading}

/-- A statement that goes on, in every state with these wires at this edge. -/
theorem Reaches.go (h : Reaches i s e pc (st :: rest) f r)
    (hst : ∀ t : State, t.wires = f → t.now = e → ∃ t', doStmt pc t st = .go t' ∧ t'.wires = f') :
    Reaches i s e (pc + 1) rest f' r := by
  obtain ⟨u, t, hseg, hf, hr⟩ := h
  obtain ⟨t', hgo, hf'⟩ := hst t hf (by rw [← hseg.now, now_eq, now_eq, hseg.shell.cycle])
  exact ⟨u, t', hseg.go hgo, hf', hr⟩

/-- A statement that passes over the next `n`. -/
theorem Reaches.skip {n : Nat} (h : Reaches i s e pc (st :: rest) f r)
    (hst : ∀ t : State, t.wires = f → doStmt pc t st = .skip n t) :
    Reaches i s e (pc + 1 + n) (rest.drop n) f r := by
  obtain ⟨u, t, hseg, hf, hr⟩ := h
  exact ⟨u, t, hseg.skip (hst t hf), hf, hr⟩

/-- A statement that waits `d` cycles. -/
theorem Reaches.stop {d pc' : Nat} (h : Reaches i s e pc (st :: rest) f r) (hd : 1 ≤ d)
    (hst : ∀ t : State, t.wires = f → t.now = e → doStmt pc t st = .stop (t.suspend (e + d) pc')) :
    Reaches i s (e + d) pc' ((programOf s.cfg i).drop pc') f (r.next f.pins) := by
  obtain ⟨u, t, hseg, hf, hr⟩ := h
  obtain ⟨u', hseg', hwires, hreading⟩ :=
    hseg.stop hd (hst t hf (by rw [← hseg.now, now_eq, now_eq, hseg.shell.cycle]))
  exact ⟨u', u', hseg', hwires.trans hf, by rw [hreading, hr, hf]⟩

theorem Reaches.program (h : Reaches i s e pc rest f r) : rest = (programOf s.cfg i).drop pc := by
  obtain ⟨u, t, hseg, -⟩ := h
  exact hseg.program

theorem Reaches.tail_program (h : Reaches i s e pc (st :: rest) f r) : rest = (programOf s.cfg i).drop (pc + 1) := by
  obtain ⟨u, t, hseg, -⟩ := h
  exact hseg.tail_program

/-! Branches on CS_N -/

theorem Reaches.skipIfHigh_high {n : Nat} (h : Reaches i s e pc (.skipIfHigh n :: rest) f r) (hcs : f.csN = true) :
    Reaches i s e (pc + 1 + n) (rest.drop n) f r :=
  h.skip fun t hf => if_pos (by rw [← hcs, ← hf]; rfl)

theorem Reaches.skipIfHigh_low {n : Nat} (h : Reaches i s e pc (.skipIfHigh n :: rest) f r) (hcs : f.csN = false) :
    Reaches i s e (pc + 1) rest f r :=
  h.go fun t hf _ => ⟨t, if_neg (by rw [Bool.not_eq_true, ← hcs, ← hf]; rfl), hf⟩

theorem Reaches.skipIfLow_high {n : Nat} (h : Reaches i s e pc (.skipIfLow n :: rest) f r) (hcs : f.csN = true) :
    Reaches i s e (pc + 1) rest f r :=
  h.go fun t hf _ => ⟨t, if_pos (by rw [← hcs, ← hf]; rfl), hf⟩

theorem Reaches.skipIfLow_low {n : Nat} (h : Reaches i s e pc (.skipIfLow n :: rest) f r) (hcs : f.csN = false) :
    Reaches i s e (pc + 1 + n) (rest.drop n) f r :=
  h.skip fun t hf => if_neg (by rw [Bool.not_eq_true, ← hcs, ← hf]; rfl)

/-! Waits -/

theorem Reaches.wait {n : Nat} (h : Reaches i s e pc (.wait n :: rest) f r) (hn : 1 ≤ n) :
    Reaches i s (e + n) (pc + 1) rest f (r.next f.pins) := by
  rw [h.tail_program]
  exact h.stop hn fun t _ hnow => by simp only [doStmt, if_neg (Nat.ne_of_gt hn), hnow]

/-- A `wait_until` goes on at the first edge at which it holds. -/
theorem Reaches.waitUntil {w : Nat} (h : Reaches i s e pc (st :: rest) f r)
    (hst : ∀ t : State, t.wires = f → doStmt pc t st = waitUntil w pc t) :
    Reaches i s (max e w) (pc + 1) rest f (if w ≤ e then r else r.next f.pins) := by
  have hgo : ∀ {e' r'}, w ≤ e' → Reaches i s e' pc (st :: rest) f r' → Reaches i s e' (pc + 1) rest f r' :=
    fun hle h' => h'.go fun t hf hnow => ⟨t, by rw [hst t hf, Machine.waitUntil, hnow, if_pos hle], hf⟩
  by_cases hle : w ≤ e
  · rw [if_pos hle, Nat.max_eq_left hle]
    exact hgo hle h
  · obtain ⟨d, rfl⟩ : ∃ d, w = e + d := ⟨w - e, by omega⟩
    have hstop := h.stop (d := d) (pc' := pc) (by omega)
      fun t hf hnow => by rw [hst t hf, Machine.waitUntil, hnow, if_neg hle]
    rw [if_neg hle, Nat.max_eq_right (Nat.le_add_right e d)]
    rw [← h.program] at hstop
    exact hgo (Nat.le_refl _) hstop

theorem Reaches.waitRise {n : Nat} (h : Reaches i s e pc (.waitRise n :: rest) f r) :
    Reaches i s (edgeAfter f.tCsRise n e) (pc + 1) rest f
      (if afterEdge f.tCsRise n ≤ e then r else r.next f.pins) :=
  h.waitUntil fun t hf => by rw [← hf]; rfl

theorem Reaches.waitFall {n : Nat} (h : Reaches i s e pc (.waitFall n :: rest) f r) :
    Reaches i s (edgeAfter f.tSclkFall n e) (pc + 1) rest f
      (if afterEdge f.tSclkFall n ≤ e then r else r.next f.pins) :=
  h.waitUntil fun t hf => by rw [← hf]; rfl

/-! Pins -/

theorem Reaches.setDc {v : Bool} (h : Reaches i s e pc (.setDc v :: rest) f r) :
    Reaches i s e (pc + 1) rest { f with dc := v } r :=
  h.go fun t hf _ => ⟨_, rfl, by rw [← hf]; rfl⟩

theorem Reaches.select (h : Reaches i s e pc (.select :: rest) f r) :
    Reaches i s e (pc + 1) rest { f with csN := false } r :=
  h.go fun t hf _ => ⟨_, rfl, by rw [← hf]; rfl⟩

theorem Reaches.deselect (h : Reaches i s e pc (.deselect :: rest) f r) :
    Reaches i s e (pc + 1) rest { f with csN := true, tCsRise := some e } r :=
  h.go fun t hf hnow => ⟨_, rfl, by rw [← hf, ← hnow]; rfl⟩

theorem Reaches.bitLow {v : Bool} (h : Reaches i s e pc (.bit v :: rest) f r) :
    Reaches i s e (pc + 1) rest { f with sclk := false, mosi := v } r :=
  h.go fun t hf _ => ⟨_, rfl, by rw [← hf]; rfl⟩

theorem Reaches.sclkHigh (h : Reaches i s e pc (.sclkHigh :: rest) f r) :
    Reaches i s e (pc + 1) rest { f with sclk := true } r :=
  h.go fun t hf _ => ⟨_, rfl, by rw [← hf]; rfl⟩

theorem Reaches.byteEnd (h : Reaches i s e pc (.byteEnd :: rest) f r) :
    Reaches i s e (pc + 1) rest { f with sclk := false, tSclkFall := some e } r :=
  h.go fun t hf hnow => ⟨_, rfl, by rw [← hf, ← hnow]; rfl⟩

/-- An op that comes to the end of its micro-program has ended there, and its wire trace is what has been read. -/
theorem Reaches.ended (h : Reaches i s e pc [] f r) :
    wireTrace (opPins i (e - s.cycle) s) = (r.next f.pins).trace ∧
    ∃ u t, opRun i (e - 1 - s.cycle) s = .next u ∧ u.now = e ∧ exec i u = .next t ∧ t.k = none ∧ t.wires = f := by
  obtain ⟨u, t, hseg, rfl, rfl⟩ := h
  refine ⟨?_, u, t.endOp, hseg.run, hseg.now, hseg.exec_end, rfl, rfl⟩
  rw [wireTrace_eq, ← hseg.reading_end]
  rfl

end

end Sys2Proof.Machine
end

section
/-! The family 40_framer.md: the primitives of R131 to R133 followed as a whole, and CMD, DATA and PIX from their first
segment to their end. -/

namespace Sys2Proof.Machine

/-- The bits of a byte in the order in which `shift` sends them (40_framer.md R132). -/
def bitsOf (b : Byte) : List Bool :=
  [b.getLsbD 7, b.getLsbD 6, b.getLsbD 5, b.getLsbD 4, b.getLsbD 3, b.getLsbD 2, b.getLsbD 1, b.getLsbD 0]

/-- They are read as the byte (00_scope.md R17). -/
theorem bytesOfBits_bitsOf (b : Byte) : bytesOfBits (bitsOf b) = [b] := by
  have hbyte : byteOfBits (b.getLsbD 7) (b.getLsbD 6) (b.getLsbD 5) (b.getLsbD 4) (b.getLsbD 3) (b.getLsbD 2)
      (b.getLsbD 1) (b.getLsbD 0) = b := by
    revert b
    decide
  rw [bitsOf, bytesOfBits, hbyte]
  rfl

section
variable {i : Instr} {s : State} {e pc : Nat} {rest : List Stmt} {f : Wires} {r : Reading} {c : Config}

/-! ### `close()` -/

/-- `close()` raises CS_N when the hold time is over (R133). -/
theorem Reaches.close (h : Reaches i s e pc (closeStmts c ++ rest) f r) :
    Reaches i s (edgeAfter f.tSclkFall c.tCsh e) (pc + 2) rest
      { f with csN := true, tCsRise := some (edgeAfter f.tSclkFall c.tCsh e) }
      (if afterEdge f.tSclkFall c.tCsh ≤ e then r else r.next f.pins) :=
  h.waitFall.deselect

/-- Right after a byte the whole hold time is still to pass, with SCLK low. -/
theorem Reaches.close_after_byte (hv : c.Valid) {ended : List Transaction} {k : TransactionKind} {bits : List Bool}
    {sclk : Bool} (h : Reaches i s e pc (closeStmts c ++ rest) f ⟨ended, some (k, bits), sclk⟩)
    (hfall : f.tSclkFall = some e) (hlow : f.csN = false) (hsclk : f.sclk = false) :
    Reaches i s (e + c.tCsh) (pc + 2) rest { f with csN := true, tCsRise := some (e + c.tCsh) }
      ⟨ended, some (k, bits), false⟩ := by
  have hcsh := hv.tCsh_pos
  have hedge : afterEdge f.tSclkFall c.tCsh = e + c.tCsh := by rw [hfall, afterEdge]
  have hread : Reading.next ⟨ended, some (k, bits), sclk⟩ f.pins = ⟨ended, some (k, bits), false⟩ := by
    simp [Reading.next, underwayAfter, Wires.pins, hlow, hsclk]
  have hclose := h.close
  rw [edgeAfter, hedge, Nat.max_eq_right (Nat.le_add_right _ _), if_neg (by omega), hread] at hclose
  exact hclose

/-- An op that closes an open transaction goes on with CS_N high (R135). -/
theorem reaches_autoClosed (h : startsNext s) (hprog : programOf s.cfg i = autoClose s.cfg ++ rest) :
    Reaches i s (autoClosedAt s s.now) 3 rest { s.wires with csN := true, tCsRise := riseSeen s s.now }
      (Reading.start.next s.wires.pins) := by
  have hstart := reaches_start h i
  rw [hprog, autoClose, List.cons_append] at hstart
  cases hcs : s.csN with
  | true =>
    simp only [autoClosedAt, riseSeen, hcs, if_true]
    rw [← hcs]
    exact hstart.skipIfHigh_high hcs
  | false =>
    have hclose := (hstart.skipIfHigh_low hcs).close
    rw [Reading.next_next, ite_self] at hclose
    simp only [autoClosedAt, riseSeen, hcs, Bool.false_eq_true, if_false]
    exact hclose

/-! ### `open(v)` -/

/-- `open(v)` begins a transaction of the kind `v` says (R131). -/
theorem Reaches.opened (hv : c.Valid) {v : Bool} (h : Reaches i s e pc (openStmts c v ++ rest) f r)
    (hhigh : f.csN = true) :
    Reaches i s (openedAt c f.tCsRise e) (pc + 6) rest { f with csN := false, dc := v }
      ⟨r.trace, some (kindOf v, []), f.sclk⟩ := by
  have hset := h.waitRise.setDc.wait hv.tDcs_pos
  have hr : Reading.next (if afterEdge f.tCsRise 1 ≤ e then r else r.next f.pins) { f with dc := v }.pins =
      r.next { f with dc := v }.pins := by
    split
    · rfl
    · exact r.next_next_high hhigh hhigh
  rw [hr] at hset
  have hopen := hset.waitRise.select.wait hv.tCss_pos
  rw [Reading.next_next, ite_self] at hopen
  have hread : (r.next { f with dc := v }.pins).next { f with dc := v, csN := false }.pins =
      ⟨r.trace, some (kindOf v, []), f.sclk⟩ := by
    simp [Reading.next, Reading.trace, underwayAfter, Wires.pins, hhigh]
  rw [← hread]
  exact hopen

/-! ### `shift(b)` -/

/-- The wires in the high half of the bit `v`. -/
def Wires.withBit (f : Wires) (v : Bool) : Wires := { f with sclk := true, mosi := v }

@[simp] theorem withBit_withBit (f : Wires) (v w : Bool) : (f.withBit v).withBit w = f.withBit w := rfl
@[simp] theorem withBit_csN (f : Wires) (v : Bool) : (f.withBit v).csN = f.csN := rfl

/-- A bit is shown with SCLK low and then high, and read at the rising edge (R132). -/
theorem Reaches.bit (hv : c.Valid) {v : Bool} {ended : List Transaction} {k : TransactionKind} {bits : List Bool}
    {sclk : Bool} (h : Reaches i s e pc (bitStmts c v ++ rest) f ⟨ended, some (k, bits), sclk⟩)
    (hlow : f.csN = false) :
    Reaches i s (e + c.sckHalf + c.sckHalf) (pc + 4) rest (f.withBit v)
      ⟨ended, some (k, bits ++ [v]), true⟩ := by
  have hbit := (h.bitLow.wait hv.sckHalf_pos).sclkHigh.wait hv.sckHalf_pos
  simpa [Reading.next, underwayAfter, Wires.pins, Wires.withBit, hlow] using hbit

/-- `shift(b)` shows the bits of `b`, and ends with SCLK low (R132). -/
theorem Reaches.shifted (hv : c.Valid) {b : Byte} {ended : List Transaction} {k : TransactionKind} {bits : List Bool}
    {sclk : Bool} (h : Reaches i s e pc (shiftStmts c b ++ rest) f ⟨ended, some (k, bits), sclk⟩)
    (hlow : f.csN = false) :
    Reaches i s (e + byteCycles c) (pc + 33) rest
      { f with sclk := false, mosi := b.getLsbD 0, tSclkFall := some (e + byteCycles c) }
      ⟨ended, some (k, bits ++ bitsOf b), true⟩ := by
  simp only [shiftStmts, List.append_assoc] at h
  have h4 := (((h.bit hv hlow).bit hv hlow).bit hv hlow).bit hv hlow
  have h8 := (((h4.bit hv hlow).bit hv hlow).bit hv hlow).bit hv hlow
  simp only [withBit_withBit] at h8
  have hcycles : e + c.sckHalf + c.sckHalf + c.sckHalf + c.sckHalf + c.sckHalf + c.sckHalf + c.sckHalf + c.sckHalf +
      c.sckHalf + c.sckHalf + c.sckHalf + c.sckHalf + c.sckHalf + c.sckHalf + c.sckHalf + c.sckHalf =
      e + byteCycles c := by rw [byteCycles]; omega
  have hend := h8.byteEnd
  simp only [hcycles, List.append_assoc, List.cons_append, List.nil_append] at hend
  exact hend

end

/-- The first cycle shows what is left of an open transaction. -/
theorem trace_first (f : Wires) : (Reading.start.next f.pins).trace = if f.csN then [] else [⟨kindOf f.dc, []⟩] := by
  cases h : f.csN <;>
    simp [Reading.start, Reading.next, Reading.trace, underwayAfter, endedBy, bytesOfBits, Wires.pins, h]

/-- A last cycle with SCLK low adds no bit to the transaction under way. -/
theorem trace_last (ended : List Transaction) (k : TransactionKind) (bits : List Bool) (sclk : Bool) {p : Pins}
    (h : p.sclk = false) : (Reading.next ⟨ended, some (k, bits), sclk⟩ p).trace = ended ++ [⟨k, bytesOfBits bits⟩] := by
  cases hp : p.csN <;> simp [Reading.next, Reading.trace, underwayAfter, endedBy, h, hp]

/-! ### What a run leaves as it was -/

/-- What only WAIT_IDLE and the dispatch write. -/
structure RunKept (s t : State) : Prop where
  errors : ErrorsKept s t
  wait : WaitKept s t
  cur : t.cur = s.cur

theorem RunKept.refl (s : State) : RunKept s s := ⟨.refl s, .refl s, rfl⟩

theorem RunKept.trans {s t u : State} (h : RunKept s t) (h' : RunKept t u) : RunKept s u :=
  ⟨h.errors.trans h'.errors, h.wait.trans h'.wait, h'.cur.trans h.cur⟩

theorem tick_runKept (s : State) (busy : Bool) : RunKept s (s.tick busy) := by
  refine ⟨?_, ?_, rfl⟩ <;> constructor <;> rfl

section
variable {i : Instr} (hi : i ≠ .waitidle)
include hi

theorem exec_runKept {s t : State} (h : exec i s = .next t) : RunKept s t :=
  ⟨exec_errorsKept h hi, exec_waitKept h hi, (exec_shell h).cur⟩

theorem opEdge_runKept {s t : State} (h : opEdge i s = .next t) : RunKept s t := by
  cases hd : s.due with
  | false =>
    rw [opEdge_wait hd] at h
    exact Host.Outcome.next.inj h ▸ tick_runKept s _
  | true =>
    rw [opEdge_due hd] at h
    exact Host.Outcome.next.inj h ▸ (exec_runKept hi (exec_eq i s)).trans (tick_runKept _ _)

/-- A run of any op but WAIT_IDLE keeps the error registers, the queue, WAIT_IDLE's counters and `cur`. -/
theorem opRun_runKept (n : Nat) : ∀ {s u : State}, opRun i n s = .next u → RunKept s u := by
  induction n with
  | zero =>
    intro s u h
    exact Host.Outcome.next.inj h ▸ .refl s
  | succ n ih =>
    intro s u h
    obtain ⟨t, ht⟩ := opEdge_next i s
    simp only [opRun, ht] at h
    exact (opEdge_runKept hi ht).trans (ih h)

/-- An op that comes to its end with the wires at `f` ends there so, and keeps the rest. -/
theorem Reaches.ends {s : State} {e pc : Nat} {f : Wires} {r : Reading} (h : Reaches i s e pc [] f r) :
    ∃ u t, opRun i (e - 1 - s.cycle) s = .next u ∧ u.now = e ∧ exec i u = .next t ∧ t.k = none ∧ t.wires = f ∧
      RunKept s t := by
  obtain ⟨-, u, t, hrun, hnow, hexec, hk, hf⟩ := h.ended
  exact ⟨u, t, hrun, hnow, hexec, hk, hf, (opRun_runKept hi _ hrun).trans (exec_runKept hi hexec)⟩

end

/-! ### CMD -/

/-- What the wires hold when CMD has ended (R136). -/
def cmdEndWires (s : State) (b : Byte) : Wires :=
  { s.wires with
    csN := true
    dc := false
    sclk := false
    mosi := b.getLsbD 0
    tCsRise := some (cmdEndAt s)
    tSclkFall := some (cmdByteAt s + byteCycles s.cfg) }

/-- CMD closes what is open, opens a command transaction, shifts its byte and closes (R136). -/
theorem cmd_reaches_end {s : State} (hv : s.cfg.Valid) (h : startsNext s) (b : Byte) :
    ∃ pc, Reaches (.cmd b) s (cmdEndAt s) pc [] (cmdEndWires s b)
      ⟨if s.csN then [] else [⟨kindOf s.dc, []⟩], some (.command, bitsOf b), false⟩ := by
  have hprog : programOf s.cfg (.cmd b) =
      autoClose s.cfg ++ (openStmts s.cfg false ++ (shiftStmts s.cfg b ++ (closeStmts s.cfg ++ []))) := by
    simp [programOf, cmdProgram]
  have hopen := (reaches_autoClosed h hprog).opened hv rfl
  have hshift := hopen.shifted hv rfl
  have hend := hshift.close_after_byte hv rfl rfl rfl
  rw [trace_first] at hend
  exact ⟨_, hend⟩

/-- Settles O42: the way to the end gives the edge and the wires, and no segment on it writes the rest. -/
theorem cmdRunsToItsEnd : Obligations.CmdRunsToItsEnd := by
  intro s b hv h
  obtain ⟨pc, hend⟩ := cmd_reaches_end hv h b
  obtain ⟨u, t, hrun, hnow, hexec, hk, hf, hkept⟩ := hend.ends (by simp)
  exact ⟨u, t, hrun, hnow, hexec, hk, congrArg Wires.csN hf, congrArg Wires.dc hf, congrArg Wires.sclk hf,
    congrArg Wires.mosi hf, congrArg Wires.tCsRise hf, congrArg Wires.tSclkFall hf, hkept.errors, hkept.wait,
    congrArg Wires.rem hf, congrArg Wires.rstN hf, hkept.cur⟩

/-- Settles O52: what the cycles show has been read along the way to the end. -/
theorem cmdSendsOneCommandTransaction : Obligations.CmdSendsOneCommandTransaction := by
  intro s b hv h
  obtain ⟨pc, hend⟩ := cmd_reaches_end hv h b
  obtain ⟨htrace, -⟩ := hend.ended
  rw [htrace, trace_last _ _ _ _ rfl, bytesOfBits_bitsOf]

/-! ### DATA and PIX -/

/-- The kind of the transaction in which a data op sends: that of the open one, or data when it opens one (R137). -/
def dataKind (s : State) : TransactionKind := if s.csN then .data else kindOf s.dc

/-- A data op begins its first byte in an open transaction (R137). -/
theorem reaches_dataOpened {i : Instr} {s : State} {rest : List Stmt} (hv : s.cfg.Valid) (h : startsNext s)
    (hprog : programOf s.cfg i = openData s.cfg ++ rest) :
    Reaches i s (dataByteAt s) 7 rest { s.wires with csN := false, dc := if s.csN then true else s.dc }
      ⟨[], some (dataKind s, []), s.sclk⟩ := by
  have hstart := reaches_start h i
  rw [hprog, openData, List.cons_append] at hstart
  cases hcs : s.csN with
  | true =>
    have hhigh : s.wires.csN = true := hcs
    have hopen := (hstart.skipIfLow_high hhigh).opened hv hhigh
    rw [trace_first, if_pos hhigh] at hopen
    simp only [dataByteAt, dataKind, hcs, if_true]
    exact hopen
  | false =>
    have hread : Reading.start.next s.wires.pins = ⟨[], some (kindOf s.dc, []), s.sclk⟩ := by
      simp [Reading.start, Reading.next, underwayAfter, Wires.pins, State.wires, hcs]
    rw [hread] at hstart
    simp only [dataByteAt, dataKind, hcs, Bool.false_eq_true, if_false]
    rw [← hcs]
    exact hstart.skipIfLow_low hcs

/-- What the wires hold when an op that sends one data byte has ended (R137). -/
def sendByteEndWires (s : State) (last : Bool) (b : Byte) : Wires :=
  { s.wires with
    csN := last
    dc := if s.csN then true else s.dc
    sclk := false
    mosi := b.getLsbD 0
    tCsRise := if last then some (dataEndAt s 1 last) else s.tCsRise
    tSclkFall := some (dataByteAt s + byteCycles s.cfg) }

/-- An op that sends one data byte opens a transaction unless one is open, shifts, and closes if LAST = 1 (R137). -/
theorem sendByte_reaches_end {i : Instr} {s : State} {last : Bool} {b : Byte} (hv : s.cfg.Valid) (h : startsNext s)
    (hprog : programOf s.cfg i = sendByteProgram s.cfg last b) :
    ∃ pc sclk, Reaches i s (dataEndAt s 1 last) pc [] (sendByteEndWires s last b)
      ⟨[], some (dataKind s, bitsOf b), sclk⟩ := by
  rw [sendByteProgram, List.append_assoc] at hprog
  have hshift := (reaches_dataOpened hv h hprog).shifted hv rfl
  have hlen : dataEndAt s 1 last = dataByteAt s + byteCycles s.cfg + (if last then s.cfg.tCsh else 0) := by
    rw [dataEndAt, Nat.mul_one]
  rw [sendByteEndWires, hlen]
  cases last with
  | false => exact ⟨_, _, hshift⟩
  | true =>
    rw [closeIfLast, if_pos rfl, ← List.append_nil (closeStmts _)] at hshift
    exact ⟨_, _, hshift.close_after_byte hv rfl rfl rfl⟩

/-- Settles O43: the way to the end, with a transaction open or not, gives the edge and the wires. -/
theorem dataRunsToItsEnd : Obligations.DataRunsToItsEnd := by
  intro s l b hv h
  obtain ⟨pc, sclk, hend⟩ := sendByte_reaches_end (i := .data l b) hv h rfl
  obtain ⟨u, t, hrun, hnow, hexec, hk, hf, hkept⟩ := hend.ends (by simp)
  exact ⟨u, t, hrun, hnow, hexec, hk, congrArg Wires.csN hf, congrArg Wires.dc hf, congrArg Wires.sclk hf,
    congrArg Wires.mosi hf, congrArg Wires.tCsRise hf, congrArg Wires.tSclkFall hf, hkept.errors, hkept.wait,
    congrArg Wires.rem hf, congrArg Wires.rstN hf, hkept.cur⟩

/-- The wire trace of an op that sends one data byte. -/
theorem wireTrace_sendByte {i : Instr} {s : State} {last : Bool} {b : Byte} (hv : s.cfg.Valid) (h : startsNext s)
    (hprog : programOf s.cfg i = sendByteProgram s.cfg last b) :
    wireTrace (opPins i (dataEndAt s 1 last - s.cycle) s) = [⟨dataKind s, [b]⟩] := by
  obtain ⟨pc, sclk, hend⟩ := sendByte_reaches_end hv h hprog
  obtain ⟨htrace, -⟩ := hend.ended
  rw [htrace, trace_last _ _ _ _ rfl, bytesOfBits_bitsOf, List.nil_append]

/-- Settles O53: DATA and PIX have the micro-program of an op that sends one data byte. -/
theorem dataAndPixSendTheirByte : Obligations.DataAndPixSendTheirByte :=
  fun _ _ hv h => ⟨fun _ => wireTrace_sendByte hv h rfl, fun _ _ => wireTrace_sendByte hv h rfl⟩

end Sys2Proof.Machine
end

section
/-! The family 41_codec.md: packed pixels, PIX as DATA with the packed byte, and FILL followed round its loop to its
end. -/

namespace Sys2Proof.Machine

/-! ### Packed pixels -/

theorem enc_toNat (c : Colour) : (enc c).toNat = c.toNat := by
  rw [enc, append_toNat, BitVec.toNat_zero, Nat.zero_mul, Nat.zero_add]

theorem enc_setWidth (c : Colour) : (enc c).setWidth 8 = c.setWidth 8 :=
  BitVec.eq_of_toNat_eq (by rw [BitVec.toNat_setWidth, BitVec.toNat_setWidth, enc_toNat])

theorem pack_append (l r : Colour) : pack l r = enc l ++ enc r := by
  rw [pack, BitVec.append_def, BitVec.shiftLeftZeroExtend_eq, BitVec.setWidth'_eq]

theorem pack_toNat (l r : Colour) : (pack l r).toNat = 16 * l.toNat + r.toNat := by
  rw [pack_append, append_toNat, enc_toNat, enc_toNat]
  omega

theorem pack_bit3 : ∀ x y : Colour, (pack x y).getLsbD 3 = false := by decide

theorem pack_bit0 : ∀ x y : Colour, (pack x y).getLsbD 0 = y.getLsbD 0 := by decide

theorem unpack_pack : ∀ l r : Colour, unpack (pack l r) = some (l, r) := by decide

/-- A byte with bits 7 and 3 clear is the packing of its two codes (R168). -/
theorem pack_fields : ∀ b : Byte, b.getLsbD 7 = false → b.getLsbD 3 = false →
    pack (b.extractLsb' 4 3) (b.extractLsb' 0 3) = b := by decide

theorem fillByte_eq (c : Colour) : fillByte c = (c.setWidth 8 <<< 4) ||| c.setWidth 8 := by
  rw [fillByte, pack, enc_setWidth]

theorem fillByte_bit0 (c : Colour) : (fillByte c).getLsbD 0 = c.getLsbD 0 := pack_bit0 c c

/-- Settles O11: the laws for every code, and the table of R160 computed. -/
theorem colourCodesAndFillBytes : Obligations.ColourCodesAndFillBytes :=
  ⟨fun c => ⟨fillByte_eq c, enc_toNat c⟩, rfl, rfl⟩

/-- Settles O12: `pack` is injective because `unpack` undoes it. -/
theorem packedByteHoldsBothPixels : Obligations.PackedByteHoldsBothPixels := by
  refine ⟨fun l r => ⟨pack_toNat l r, ?_, pack_bit7 l r, pack_bit3 l r, unpack_pack l r⟩, fun l r l' r' h => ?_,
    fun b h7 h3 => ⟨_, _, pack_fields b h7 h3⟩⟩
  · rw [pack_toNat]
    omega
  · simpa [unpack_pack] using congrArg unpack h

/-! ### PIX -/

theorem exec_pix (l : Bool) (x y : Colour) : exec (.pix l x y) = exec (.data l (pack x y)) := rfl

theorem opEdge_pix (l : Bool) (x y : Colour) : opEdge (.pix l x y) = opEdge (.data l (pack x y)) := rfl

theorem opRun_pix (l : Bool) (x y : Colour) (n : Nat) :
    ∀ s, opRun (.pix l x y) n s = opRun (.data l (pack x y)) n s := by
  induction n with
  | zero => exact fun _ => rfl
  | succ n ih => intro s; simp only [opRun, opEdge_pix, ih]

/-- Settles O44: PIX runs as DATA does with the packed byte (R165). -/
theorem pixRunsToItsEnd : Obligations.PixRunsToItsEnd := by
  intro s l x y hv h
  simpa only [opRun_pix, exec_pix, pack_bit0] using dataRunsToItsEnd s l (pack x y) hv h

/-! ### FILL's loop -/

/-- FILL's statements from the first of its loop on, which has index 8 (R166). -/
def fillFromByte (c : Config) (last : Bool) (x : Colour) : List Stmt :=
  shiftStmts c (fillByte x) ++ .fillAgain ((fillByte x).getLsbD 7) c.sckHalf 10 :: closeIfLast c last

theorem fillProgram_drop_byte (c : Config) {n : BitVec 16} (hn : n ≠ 0) (last : Bool) (x : Colour) :
    (fillProgram c n last x).drop 8 = fillFromByte c last x := by
  rw [fillProgram_eq c hn]
  rfl

/-- A segment whose rest does what the micro-program does from statement `pc'` on, but for the state `t'`, jumps
there. -/
theorem Segment.jump {i : Instr} {s : State} {e pc pc' : Nat} {rest : List Stmt} {u t t' : State}
    (h : Segment i s e pc rest u t) (hshell : Untouched t t')
    (hjump : runFrom pc 0 rest t = runFrom pc' 0 ((programOf s.cfg i).drop pc') t') :
    Segment i s e pc' ((programOf s.cfg i).drop pc') u t' where
  run := h.run
  ahead := h.ahead
  now := h.now
  due := h.due
  cfg := h.cfg
  shell := h.shell.trans hshell
  program := rfl
  segment := h.segment.trans hjump

section
variable {i : Instr} {s : State} {e pc : Nat} {rest : List Stmt} {f : Wires} {r : Reading}

theorem Reaches.setRem {n : Nat} (h : Reaches i s e pc (.setRem n :: rest) f r) :
    Reaches i s e (pc + 1) rest { f with rem := n } r :=
  h.go fun t hf _ => ⟨_, rfl, by rw [← hf]; rfl⟩

/-- The foot of FILL's loop goes on when the last byte has been sent (R166). -/
theorem Reaches.fillAgain_over {v : Bool} {half back : Nat}
    (h : Reaches i s e pc (.fillAgain v half back :: rest) f r) (hrem : f.rem = 1) :
    Reaches i s e (pc + 1) rest { f with rem := 0 } r := by
  refine h.go fun t hf _ => ⟨{ t with rem := 0 }, if_pos ?_, by rw [← hf]; rfl⟩
  rw [← hf] at hrem
  exact Nat.sub_eq_zero_of_le (Nat.le_of_eq hrem)

/-- `if LAST = 1: close()` right after a byte: CS_N rises when the whole hold time is over, or the op ends at once. -/
theorem Reaches.closedIfLast {c : Config} (hv : c.Valid) {last : Bool} {ended : List Transaction} {k : TransactionKind}
    {bits : List Bool} {sclk : Bool} (h : Reaches i s e pc (closeIfLast c last) f ⟨ended, some (k, bits), sclk⟩)
    (hfall : f.tSclkFall = some e) (hlow : f.csN = false) (hsclk : f.sclk = false) :
    ∃ pc' sclk', Reaches i s (e + if last then c.tCsh else 0) pc' []
      { f with csN := last, tCsRise := if last then some (e + if last then c.tCsh else 0) else f.tCsRise }
      ⟨ended, some (k, bits), sclk'⟩ := by
  cases last with
  | false =>
    have hf : { f with csN := false } = f := by rw [← hlow]
    rw [← hf] at h
    exact ⟨_, _, h⟩
  | true =>
    rw [closeIfLast, if_pos rfl, ← List.append_nil (closeStmts _)] at h
    exact ⟨_, _, h.close_after_byte hv hfall hlow hsclk⟩

end

/-- The wires when FILL has sent its last byte by edge `e`. -/
def Wires.filled (f : Wires) (x : Colour) (e : Nat) : Wires :=
  { f with sclk := false, mosi := x.getLsbD 0, tSclkFall := some e, rem := 0 }

section
variable {n : BitVec 16} {l : Bool} {x : Colour} {s : State} (hn : n ≠ 0) (hv : s.cfg.Valid)
include hn hv

/-- With bytes left FILL's foot begins the next byte in its own segment, as the loop's first statements do: it goes
round the loop (R166). -/
theorem Reaches.fillAgain_more {e pc : Nat} {rest : List Stmt} {f : Wires} {r : Reading}
    (h : Reaches (.fill n l x) s e pc (.fillAgain ((fillByte x).getLsbD 7) s.cfg.sckHalf 10 :: rest) f r)
    (hrem : 1 < f.rem) : Reaches (.fill n l x) s e 8 (fillFromByte s.cfg l x) { f with rem := f.rem - 1 } r := by
  obtain ⟨u, t, hseg, rfl, hr⟩ := h
  have hcfg : s.cfg = t.cfg := (hseg.shell.cfg.trans hseg.cfg).symm
  have hdrop : (programOf s.cfg (.fill n l x)).drop 8 = fillFromByte s.cfg l x := fillProgram_drop_byte s.cfg hn l x
  refine ⟨u, { t with rem := t.rem - 1 }, hdrop ▸ hseg.jump (by constructor <;> rfl) ?_, rfl, hr⟩
  rw [runFrom_fillAgain_more _ _ hrem, hdrop, fillFromByte, hcfg]
  exact (runFrom_shiftStmts (s := { t with rem := t.rem - 1 }) (hcfg ▸ hv.sckHalf_pos) (fillByte x)).symm

/-- FILL's loop with `m + 1` bytes left sends them with a continuous clock (R166). -/
theorem Reaches.filled (m : Nat) : ∀ {e : Nat} {f : Wires} {ended : List Transaction} {k : TransactionKind}
    {bits : List Bool} {sclk : Bool},
    Reaches (.fill n l x) s e 8 (fillFromByte s.cfg l x) f ⟨ended, some (k, bits), sclk⟩ → f.csN = false →
    f.rem = m + 1 →
    Reaches (.fill n l x) s (e + byteCycles s.cfg * (m + 1)) 42 (closeIfLast s.cfg l)
      (f.filled x (e + byteCycles s.cfg * (m + 1)))
      ⟨ended, some (k, bits ++ (List.replicate (m + 1) (bitsOf (fillByte x))).flatten), true⟩ := by
  induction m with
  | zero =>
    intro e f ended k bits sclk h hlow hrem
    have hbyte := (h.shifted hv hlow).fillAgain_over hrem
    rw [fillByte_bit0] at hbyte
    rw [Nat.zero_add, Nat.mul_one, List.replicate_one, List.flatten_singleton]
    exact hbyte
  | succ m ih =>
    intro e f ended k bits sclk h hlow hrem
    have hbyte := (h.shifted hv hlow).fillAgain_more hn hv (by rw [hrem]; omega)
    have hrest := ih hbyte hlow (by rw [hrem]; rfl)
    have hlen : e + byteCycles s.cfg * (m + 1 + 1) = e + byteCycles s.cfg + byteCycles s.cfg * (m + 1) := by
      rw [Nat.mul_succ]
      omega
    rw [hlen, List.replicate_succ, List.flatten_cons, ← List.append_assoc]
    exact hrest

end

/-! ### FILL -/

/-- What the wires hold when FILL has ended (R166). -/
def fillEndWires (s : State) (n : Nat) (last : Bool) (x : Colour) : Wires :=
  { s.wires.filled x (dataByteAt s + byteCycles s.cfg * n) with
    csN := last
    dc := if s.csN then true else s.dc
    tCsRise := if last then some (dataEndAt s n last) else s.tCsRise }

/-- FILL opens a transaction unless one is open, sends its byte COUNT times, and closes if LAST = 1 (R166). -/
theorem fill_reaches_end {s : State} {n : BitVec 16} (hv : s.cfg.Valid) (h : startsNext s) (hn : n ≠ 0) (l : Bool)
    (x : Colour) :
    ∃ pc sclk, Reaches (.fill n l x) s (dataEndAt s n.toNat l) pc [] (fillEndWires s n.toNat l x)
      ⟨[], some (dataKind s, (List.replicate n.toNat (bitsOf (fillByte x))).flatten), sclk⟩ := by
  have hset := (reaches_dataOpened (i := .fill n l x) hv h (fillProgram_eq s.cfg hn l x)).setRem
  have hpos : n.toNat ≠ 0 := fun hz => hn (BitVec.eq_of_toNat_eq hz)
  obtain ⟨m, hm⟩ := Nat.exists_eq_succ_of_ne_zero hpos
  have hfilled := Reaches.filled hn hv m hset rfl hm
  rw [← Nat.succ_eq_add_one, ← hm, List.nil_append] at hfilled
  exact hfilled.closedIfLast hv rfl rfl rfl

/-- Settles O45: the way to the end, COUNT times round the loop, gives the edge and the wires. -/
theorem fillRunsToItsEnd : Obligations.FillRunsToItsEnd := by
  intro s n l c hv h hn
  obtain ⟨pc, sclk, hend⟩ := fill_reaches_end hv h hn l c
  obtain ⟨u, t, hrun, hnow, hexec, hk, hf, hkept⟩ := hend.ends (by simp)
  exact ⟨u, t, hrun, hnow, hexec, hk, congrArg Wires.csN hf, congrArg Wires.dc hf, congrArg Wires.sclk hf,
    congrArg Wires.mosi hf, congrArg Wires.tCsRise hf, congrArg Wires.tSclkFall hf, congrArg Wires.rem hf,
    hkept.errors, hkept.wait, congrArg Wires.rstN hf, hkept.cur⟩

/-- The bits of a byte are read as the byte, whatever bits follow. -/
theorem bytesOfBits_bitsOf_append (b : Byte) (bits : List Bool) :
    bytesOfBits (bitsOf b ++ bits) = b :: bytesOfBits bits :=
  congrArg (· ++ bytesOfBits bits) (bytesOfBits_bitsOf b)

theorem bytesOfBits_replicate (b : Byte) (n : Nat) :
    bytesOfBits (List.replicate n (bitsOf b)).flatten = List.replicate n b := by
  induction n with
  | zero => rfl
  | succ n ih => rw [List.replicate_succ, List.flatten_cons, bytesOfBits_bitsOf_append, ih, List.replicate_succ]

/-- Settles O54: the bits read on the way to the end are those of COUNT times the fill byte. -/
theorem fillSendsItsByteCountTimes : Obligations.FillSendsItsByteCountTimes := by
  intro s n l c hv h hn
  obtain ⟨pc, sclk, hend⟩ := fill_reaches_end hv h hn l c
  obtain ⟨htrace, -⟩ := hend.ended
  rw [htrace, trace_last _ _ _ _ rfl, bytesOfBits_replicate, List.nil_append, dataKind]

end Sys2Proof.Machine
end

section
/-! The family 42_busy_wait.md: what a segment of WAIT_IDLE leaves as it was, and what each pass of its loop does. -/

namespace Sys2Proof.Machine

/-! ### Frame -/

theorem WireKept.refl (s : State) : WireKept s s := ⟨rfl, rfl, rfl, rfl⟩

theorem WireKept.trans {s t u : State} (h : WireKept s t) (h' : WireKept t u) : WireKept s u :=
  ⟨h'.dc.trans h.dc, h'.sclk.trans h.sclk, h'.mosi.trans h.mosi, h'.tSclkFall.trans h.tSclkFall⟩

theorem pollOnce_wireKept (pc : Nat) (s : State) : WireKept s (pollOnce pc s) := by
  unfold pollOnce; split <;> exact ⟨rfl, rfl, rfl, rfl⟩

theorem pollAgain_wireKept (pc : Nat) (s : State) : WireKept s (pollAgain pc s) := by
  unfold pollAgain
  split
  · exact ⟨rfl, rfl, rfl, rfl⟩
  · exact WireKept.trans (t := s.slept) ⟨rfl, rfl, rfl, rfl⟩ (pollOnce_wireKept pc s.slept)

/-- A statement that drives DC, SCLK or MOSI. -/
def Stmt.writesWire : Stmt → Bool
  | .setDc _ => true
  | .bit _ => true
  | .sclkHigh => true
  | .byteEnd => true
  | .fillAgain _ _ _ => true
  | _ => false

theorem doStmt_wireKept {st : Stmt} (hst : st.writesWire = false) (pc : Nat) (s : State) :
    WireKept s (doStmt pc s st).state := by
  cases st with
  | setDc v | bit v | sclkHigh | byteEnd | fillAgain v half back => simp [Stmt.writesWire] at hst
  | waitRise n | waitFall n => exact waitUntil_keeps (P := WireKept s) (.refl s) ⟨rfl, rfl, rfl, rfl⟩
  | skipIfHigh n | skipIfLow n | wait n => simp only [doStmt]; split <;> exact ⟨rfl, rfl, rfl, rfl⟩
  | sample => exact pollOnce_wireKept _ s
  | pollWake => exact pollAgain_wireKept _ s
  | _ => exact ⟨rfl, rfl, rfl, rfl⟩

/-- An op without such a statement leaves the wires that only CMD and the data ops drive. -/
theorem exec_wireKept {i : Instr} {s t : State} (h : exec i s = .next t)
    (hi : (programOf s.cfg i).all (fun st => !st.writesWire) = true) : WireKept s t :=
  exec_keeps h (fun st hst pc _ hs => hs.trans (doStmt_wireKept (by simpa using List.all_eq_true.mp hi st hst) pc _))
    (fun _ hs => hs.trans ⟨rfl, rfl, rfl, rfl⟩) (WireKept.refl s)

/-- What a WAIT_IDLE keeps as long as it does not time out, and what TIMEOUT reports. -/
structure Unfailed (s t : State) : Prop where
  errors : ErrorsKept s t
  cur : t.cur = s.cur
  cfg : t.cfg = s.cfg

theorem Unfailed.refl (s : State) : Unfailed s s := ⟨.refl s, rfl, rfl⟩

theorem Unfailed.trans {s t u : State} (h : Unfailed s t) (h' : Unfailed t u) : Unfailed s u :=
  ⟨h.errors.trans h'.errors, h'.cur.trans h.cur, h'.cfg.trans h.cfg⟩

/-- What TIMEOUT leaves of a state with the error registers and the op word of `s` (R186, 60_exceptions.md R255). -/
structure TimedOut (s t : State) : Prop where
  bound : s.cfg.timeoutMs ≤ t.elapsed
  err : t.err = true
  q : t.q = []
  eng : t.eng = .idle
  k : t.k = none
  first : s.err = false → t.errcode = 1 ∧ t.errinfo = s.cur
  later : s.err = true → t.errcode = s.errcode ∧ t.errinfo = s.errinfo

theorem TimedOut.of_unfailed {s u t : State} (h : Unfailed s u) (h' : TimedOut u t) : TimedOut s t where
  bound := h.cfg ▸ h'.bound
  err := h'.err
  q := h'.q
  eng := h'.eng
  k := h'.k
  first he := h.cur ▸ h'.first (h.errors.err.trans he)
  later he := by rw [← h.errors.errcode, ← h.errors.errinfo]; exact h'.later (h.errors.err.trans he)

theorem raise_timedOut {s : State} (h : s.cfg.timeoutMs ≤ s.elapsed) : TimedOut s (s.raise .timeout s.cur) where
  bound := h
  err := rfl
  q := rfl
  eng := rfl
  k := rfl
  first he := by simp [he, ErrorKind.code]
  later he := by simp [he]

theorem pollOnce_unfailed (pc : Nat) (s : State) : Unfailed s (pollOnce pc s) := by
  unfold pollOnce; split <;> exact ⟨⟨rfl, rfl, rfl, rfl, rfl⟩, rfl, rfl⟩

theorem slept_unfailed (s : State) : Unfailed s s.slept := ⟨⟨rfl, rfl, rfl, rfl, rfl⟩, rfl, rfl⟩

/-- A sleep is followed by TIMEOUT at the bound alone. -/
theorem pollAgain_unfailed_or (pc : Nat) (s : State) :
    Unfailed s (pollAgain pc s) ∨ TimedOut s (pollAgain pc s) := by
  unfold pollAgain
  split
  · next hbound => exact .inr ((raise_timedOut hbound).of_unfailed (slept_unfailed s))
  · exact .inl ((slept_unfailed s).trans (pollOnce_unfailed pc s.slept))

/-- Every statement of WAIT_IDLE goes on unfailed, or stops so or by TIMEOUT. -/
theorem doStmt_unfailed_or {c : Config} {s : State} {pc : Nat} {st : Stmt} {s' : State}
    (hst : (waitidleProgram c)[pc]? = some st) (h : Unfailed s s') :
    (doStmt pc s' st).leads (fun _ => Unfailed s) (fun t => Unfailed s t ∨ TimedOut s t) pc := by
  have hkept : ∀ {t : State}, Unfailed s' t → Unfailed s t := h.trans
  obtain ⟨rfl, rfl⟩ | ⟨rfl, rfl⟩ | ⟨rfl, rfl⟩ | ⟨rfl, rfl⟩ | ⟨rfl, rfl⟩ | ⟨rfl, rfl⟩ := waitidleProgram_at hst
  · simp only [doStmt]
    split <;> exact h
  · exact waitUntil_leads h fun _ => .inl (hkept ⟨⟨rfl, rfl, rfl, rfl, rfl⟩, rfl, rfl⟩)
  · exact hkept ⟨⟨rfl, rfl, rfl, rfl, rfl⟩, rfl, rfl⟩
  · exact hkept ⟨⟨rfl, rfl, rfl, rfl, rfl⟩, rfl, rfl⟩
  · exact .inl (hkept (pollOnce_unfailed _ s'))
  · exact (pollAgain_unfailed_or _ s').imp hkept (TimedOut.of_unfailed h)

/-- A segment of WAIT_IDLE keeps the error registers, the queue and the engine, or it times out. -/
theorem waitidle_unfailed_or {s t : State} (h : exec .waitidle s = .next t) : Unfailed s t ∨ TimedOut s t := by
  have hsegment : ∀ pc, Unfailed s (runFrom pc 0 ((waitidleProgram s.cfg).drop pc) s) ∨
      TimedOut s (runFrom pc 0 ((waitidleProgram s.cfg).drop pc) s) := fun pc =>
    runFrom_rule (P := fun _ => Unfailed s) (Q := fun t => Unfailed s t ∨ TimedOut s t)
      (fun _ _ _ hst => doStmt_unfailed_or hst)
      (fun _ _ _ hs => .inl (hs.trans ⟨⟨rfl, rfl, rfl, rfl, rfl⟩, rfl, rfl⟩)) _ pc 0 s rfl (.refl s)
  rw [exec_next h, runProgram]
  cases s.k with
  | none => exact hsegment 0
  | some r => exact hsegment r.pc

/-- Settles O38: no statement of WAIT_IDLE drives the wire, `rem` or RST_N, and only what follows a sleep raises. -/
theorem waitIdleFrame : Obligations.WaitIdleFrame := by
  intro s t h
  refine ⟨exec_shell h, exec_wireKept h rfl, exec_rem h (by simp), exec_rstN h (by simp),
    (waitidle_unfailed_or h).imp Unfailed.errors fun ht => ?_⟩
  exact ⟨ht.bound, ht.err, ht.q, ht.eng, ht.k, ht.first, ht.later⟩

/-! ### The passes of the loop -/

/-- One pass of the loop from its sample on: what is written, whether it ends the op or sleeps (R183, R186). -/
theorem pollOnce_eq (pc : Nat) (s : State) :
    let n := if s.bsync2 = s.cfg.busyIdleLevel then s.idleCnt + 1 else 0
    pollOnce pc s = { s with
      polls := s.polls + 1
      idleCnt := n
      k := if s.cfg.debounceN ≤ n then none else some ⟨s.now + s.cfg.pollMs * s.cfg.tickDiv, pc⟩ } := by
  intro n
  have hcount : s.sampled = { s with polls := s.polls + 1, idleCnt := n } := by
    simp [State.sampled, State.sampleIdle, n]
  rw [pollOnce, hcount]
  by_cases h : s.cfg.debounceN ≤ n
  · simp only [if_pos h]
    rfl
  · simp only [if_neg h]
    rfl

/-- The state with CS_N raised at the edge, unless it is high already. -/
def State.closed (s : State) : State :=
  { s with csN := true, tCsRise := if s.csN then s.tCsRise else some s.now }

theorem closed_of_high {s : State} (h : s.csN = true) : s.closed = s := by
  rw [State.closed, h, if_pos rfl, ← h]

theorem closed_of_low {s : State} (h : s.csN = false) :
    s.closed = { s with csN := true, tCsRise := some s.now } := by
  rw [State.closed, h]
  rfl

/-- An auto-close with CS_N high, or the hold time over, does not end its segment (40_framer.md R133, R135). -/
theorem Segment.autoClose_at_once {i : Instr} {s : State} {rest : List Stmt} (h : startsNext s)
    (hprog : programOf s.cfg i = autoClose s.cfg ++ rest)
    (hover : s.csN = true ∨ afterEdge s.tSclkFall s.cfg.tCsh ≤ s.now) : Segment i s s.now 3 rest s s.closed := by
  have hstart := Segment.start h i
  rw [hprog, autoClose, List.cons_append] at hstart
  cases hcs : s.csN with
  | true => exact (closed_of_high hcs).symm ▸ hstart.skip (if_pos hcs)
  | false =>
    have hhold : afterEdge s.tSclkFall s.cfg.tCsh ≤ s.now := by simpa [hcs] using hover
    rw [closed_of_low hcs]
    exact ((hstart.go (if_neg (by simp [hcs]))).go (if_pos hhold)).go rfl

theorem Segment.exec {i : Instr} {s : State} {e pc : Nat} {rest : List Stmt} {u t : State}
    (h : Segment i s e pc rest u t) : exec i u = .next (runFrom pc 0 rest t) := by
  rw [exec_eq, h.segment]

/-- Settles O48: the first segment goes through the auto-close and the clearing of the counters to the sample. -/
theorem waitIdleTakesItsFirstSample : Obligations.WaitIdleTakesItsFirstSample := by
  intro s h hover n
  have hsample := (Segment.autoClose_at_once (i := .waitidle) h rfl hover).go rfl
  rw [hsample.exec]
  exact congrArg _ (pollOnce_eq pollWakeIndex { s.closed with elapsed := 0, idleCnt := 0, polls := 0 })

theorem pollAgain_of_bound {s : State} (pc : Nat) (h : s.cfg.timeoutMs ≤ s.elapsed + s.cfg.pollMs) :
    pollAgain pc s = s.slept.raise .timeout s.cur := if_pos h

theorem pollAgain_of_more {s : State} (pc : Nat) (h : s.elapsed + s.cfg.pollMs < s.cfg.timeoutMs) :
    pollAgain pc s = pollOnce pc s.slept := if_neg (Nat.not_le_of_lt h)

/-- Settles O49: the one statement left adds the sleep and, short of the bound, makes one more pass. -/
theorem waitIdleSamplesAgainOrTimesOut : Obligations.WaitIdleSamplesAgainOrTimesOut := by
  intro s w hk e n
  have hwake : exec .waitidle s = .next (pollAgain pollWakeIndex s) := exec_at hk .waitidle
  refine ⟨fun hbound => ?_, fun hmore => ?_⟩
  · rw [hwake, pollAgain_of_bound _ hbound]
    rfl
  · rw [hwake, pollAgain_of_more _ hmore]
    exact congrArg _ (pollOnce_eq pollWakeIndex s.slept)

end Sys2Proof.Machine
end

section
/-! The family 42_busy_wait.md: WAIT_IDLE followed from sample to sample to its end. -/

namespace Sys2Proof.Machine

/-! ### A segment that sleeps -/

section
variable {i : Instr} {s : State} {e pc : Nat} {st : Stmt} {rest : List Stmt} {u t : State}

/-- A statement that suspends the state `t'` it leaves ends the segment; at its wake edge the op goes on with what
`t'` holds. -/
theorem Segment.sleep {d pc' : Nat} {t' : State} (h : Segment i s e pc (st :: rest) u t) (hd : 1 ≤ d)
    (hst : doStmt pc t st = .stop (t'.suspend (e + d) pc')) :
    ∃ u', Segment i s (e + d) pc' ((programOf s.cfg i).drop pc') u' u' ∧ RunKept t' u' ∧ u'.wires = t'.wires := by
  have hahead := h.ahead
  have hnow := h.now
  rw [now_eq] at hnow
  have hkept : Untouched t (t'.suspend (e + d) pc') := by simpa [hst] using doStmt_shell pc t st
  have hedge : opEdge i u = .next ((t'.suspend (e + d) pc').tick u.input.busy) := by
    rw [opEdge_due h.due, h.segment, runFrom_cons, hst]
  generalize hv : (t'.suspend (e + d) pc').tick u.input.busy = v at hedge
  have hk : v.k = some ⟨e + d, pc'⟩ := by rw [← hv]; rfl
  have hcycle : v.cycle = e := by rw [← hv, State.tick_cycle, hkept.cycle, h.shell.cycle, hnow]
  have hcfg : v.cfg = s.cfg := by rw [← hv, State.tick_cfg, hkept.cfg, h.shell.cfg, h.cfg]
  have hrun : opRun i 1 u = .next v := by simp [opRun, hedge]
  obtain ⟨hwait, hwake, hdue⟩ := wake_reached hk (by omega) i
  have hp := State.pass_passed (e + d - 1 - v.cycle) v
  have hlen : e + d - 1 - s.cycle = e - 1 - s.cycle + 1 + (e + d - 1 - v.cycle) := by omega
  refine ⟨v.pass (e + d - 1 - v.cycle), ⟨?_, by omega, hwake, hdue, hp.cfg.trans hcfg, .refl _, rfl, ?_⟩, ?_, ?_⟩
  · rw [hlen]
    exact opRun_trans (opRun_trans h.run hrun) hwait
  · rw [runProgram_at (hp.k.trans hk), hp.cfg, hcfg]
  · have hpass : RunKept v (v.pass (e + d - 1 - v.cycle)) :=
      ⟨⟨hp.err, hp.errcode, hp.errinfo, hp.q, hp.eng⟩, ⟨hp.polls, hp.elapsed, hp.idleCnt⟩, hp.cur⟩
    have hslept : RunKept t' v := by rw [← hv]; exact ⟨⟨rfl, rfl, rfl, rfl, rfl⟩, ⟨rfl, rfl, rfl⟩, rfl⟩
    exact hslept.trans hpass
  · rw [pass_wires, ← hv]
    rfl

end

/-- An op that closes an open transaction goes on with CS_N high (40_framer.md R135), and keeps the rest. -/
theorem Segment.autoClosed {i : Instr} {s : State} {rest : List Stmt} (h : startsNext s)
    (hprog : programOf s.cfg i = autoClose s.cfg ++ rest) :
    ∃ u t, Segment i s (autoClosedAt s s.now) 3 rest u t ∧ RunKept s t ∧ t.csN = true := by
  by_cases hover : s.csN = true ∨ afterEdge s.tSclkFall s.cfg.tCsh ≤ s.now
  · have hedge : autoClosedAt s s.now = s.now := by
      rw [autoClosedAt, ite_eq_left_iff]
      intro hlow
      exact Nat.max_eq_left (hover.resolve_left hlow)
    rw [hedge]
    exact ⟨s, s.closed, .autoClose_at_once h hprog hover, ⟨⟨rfl, rfl, rfl, rfl, rfl⟩, ⟨rfl, rfl, rfl⟩, rfl⟩, rfl⟩
  · obtain ⟨hlow, hahead⟩ := not_or.mp hover
    obtain ⟨d, hd⟩ : ∃ d, afterEdge s.tSclkFall s.cfg.tCsh = s.now + d := ⟨_, (Nat.add_sub_of_le (by omega)).symm⟩
    have hedge : autoClosedAt s s.now = s.now + d := by
      rw [autoClosedAt, if_neg hlow, edgeAfter, hd, Nat.max_eq_right (Nat.le_add_right _ _)]
    have hstart := Segment.start h i
    rw [hprog, autoClose, List.cons_append] at hstart
    obtain ⟨u, hwake, hkept, hwires⟩ := (hstart.go (if_neg hlow)).sleep (d := d) (t' := s) (pc' := 1) (by omega)
      (by rw [doStmt, waitUntil, if_neg hahead, hd])
    have hhold : afterEdge u.tSclkFall s.cfg.tCsh ≤ u.now := by
      have hfall : u.tSclkFall = s.tSclkFall := congrArg Wires.tSclkFall hwires
      rw [hwake.now, hfall, hd]
    rw [hprog] at hwake
    rw [hedge]
    refine ⟨u, { u with csN := true, tCsRise := some u.now }, (hwake.go (if_pos hhold)).go rfl, hkept.trans ?_, rfl⟩
    exact ⟨⟨rfl, rfl, rfl, rfl, rfl⟩, ⟨rfl, rfl, rfl⟩, rfl⟩

/-! ### From sample to sample -/

/-- The edge `F + j * P` of sample `j` of a WAIT_IDLE that starts in `s`, counted from 0 (R185). -/
def sampleAt (s : State) (j : Nat) : Nat := autoClosedAt s s.now + j * pollCycles s.cfg

theorem sampleAt_succ (s : State) (j : Nat) : sampleAt s (j + 1) = sampleAt s j + s.cfg.pollMs * s.cfg.tickDiv := by
  rw [sampleAt, sampleAt, Nat.succ_mul, pollCycles, Nat.add_assoc]

/-- `K` sleeps are the first to reach the bound (R185). -/
theorem maxSamples_le_iff {c : Config} (hv : c.Valid) (j : Nat) : maxSamples c ≤ j ↔ c.timeoutMs ≤ j * c.pollMs := by
  rw [maxSamples, ← Nat.ceilDiv_eq_add_pred_div, ceilDiv_le_iff_le_mul hv.pollMs_pos, Nat.mul_comm]

/-- WAIT_IDLE, starting in `s`, takes its sample `j` in the state `v`, in the segment run from the state `u`: `j`
samples and sleeps are behind it, and neither the debounce nor the bound is complete. -/
structure Sampling (s : State) (j : Nat) (u v : State) : Prop where
  segment : Segment .waitidle s (sampleAt s j) 4 [.sample, .pollWake] u v
  unfailed : Unfailed s v
  csN : v.csN = true
  polls : v.polls = BitVec.ofNat 32 j
  elapsed : v.elapsed = j * s.cfg.pollMs
  idle : v.idleCnt < s.cfg.debounceN
  bound : j < maxSamples s.cfg

/-- It wakes up in the state `w` at the edge of sample `j`, after `j` samples and a sleep not yet counted. -/
structure Waking (s : State) (j : Nat) (w : State) : Prop where
  segment : Segment .waitidle s (sampleAt s j) pollWakeIndex [.pollWake] w w
  unfailed : Unfailed s w
  csN : w.csN = true
  polls : w.polls = BitVec.ofNat 32 j
  elapsed : w.slept.elapsed = j * s.cfg.pollMs
  idle : w.idleCnt < s.cfg.debounceN
  bound : j ≤ maxSamples s.cfg

/-- The first sample follows the auto-close. -/
theorem sampling_first {s : State} (hv : s.cfg.Valid) (h : startsNext s) : ∃ u v, Sampling s 0 u v := by
  obtain ⟨u, t, hclosed, hkept, hcs⟩ := Segment.autoClosed (i := .waitidle) h rfl
  have hunfailed : Unfailed s t := ⟨hkept.errors, hkept.cur, hclosed.shell.cfg.trans hclosed.cfg⟩
  have hedge : sampleAt s 0 = autoClosedAt s s.now := by rw [sampleAt, Nat.zero_mul, Nat.add_zero]
  have htimeout := hv.timeoutMs_pos
  refine ⟨u, { t with elapsed := 0, idleCnt := 0, polls := 0#32 }, hedge ▸ hclosed.go rfl,
    hunfailed.trans ⟨⟨rfl, rfl, rfl, rfl, rfl⟩, rfl, rfl⟩, hcs, rfl, (Nat.zero_mul _).symm, hv.debounceN_pos, ?_⟩
  rw [← Nat.not_le, maxSamples_le_iff hv]
  omega

/-- WAIT_IDLE has ended by a completed debounce, at an idle sample (R183, R188). -/
structure Debounced (s : State) (j : Nat) (u t : State) : Prop where
  bound : j < maxSamples s.cfg
  sampleIdle : u.sampleIdle = true
  idle : s.cfg.debounceN ≤ t.idleCnt
  polls : t.polls = BitVec.ofNat 32 (j + 1)
  errors : ErrorsKept s t

/-- WAIT_IDLE, starting in `s`, ends at the edge of sample `j`, in the segment that leads from `u` to `t`: by a
completed debounce, or by TIMEOUT in place of sample `K` (R188). -/
structure WaitEnds (s : State) (j : Nat) (u t : State) : Prop where
  run : opRun .waitidle (sampleAt s j - 1 - s.cycle) s = .next u
  now : u.now = sampleAt s j
  exec : exec .waitidle u = .next t
  k : t.k = none
  csN : t.csN = true
  outcome : Debounced s j u t ∨ (j = maxSamples s.cfg ∧ t.polls = BitVec.ofNat 32 j ∧ TimedOut s t)

namespace Sampling
variable {s : State} {j : Nat} {u v : State} (h : Sampling s j u v)
include h

theorem polls_succ : v.sampled.polls = BitVec.ofNat 32 (j + 1) := by
  rw [State.sampled_polls, h.polls, BitVec.ofNat_add]

/-- A sample that completes the debounce is idle: a busy one restarts the count (R183). -/
theorem idle_of_debounced (hdone : s.cfg.debounceN ≤ v.sampled.idleCnt) : u.sampleIdle = true := by
  have hidle : v.sampleIdle = true := by
    by_contra hbusy
    have hzero : v.sampled.idleCnt = 0 := if_neg hbusy
    have hcount := h.idle
    omega
  rwa [State.sampleIdle, h.segment.shell.bsync2, h.segment.shell.cfg] at hidle

/-- Such a sample ends the op. -/
theorem debounced (hdone : s.cfg.debounceN ≤ v.sampled.idleCnt) : WaitEnds s j u v.sampled.endOp where
  run := h.segment.run
  now := h.segment.now
  exec := by
    rw [h.segment.exec]
    exact congrArg _ (if_pos (h.unfailed.cfg ▸ hdone))
  k := rfl
  csN := h.csN
  outcome := .inl {
    bound := h.bound
    sampleIdle := h.idle_of_debounced hdone
    idle := hdone
    polls := h.polls_succ
    errors := h.unfailed.errors.trans ⟨rfl, rfl, rfl, rfl, rfl⟩ }

/-- A sample that does not is followed by a sleep until the edge of the next one. -/
theorem sleeps (hv : s.cfg.Valid) (hmore : v.sampled.idleCnt < s.cfg.debounceN) : ∃ w, Waking s (j + 1) w := by
  have hsleep : 1 ≤ s.cfg.pollMs * s.cfg.tickDiv := Nat.mul_pos hv.pollMs_pos hv.tickDiv_pos
  have hnow : v.now = sampleAt s j := by rw [← h.segment.now, now_eq, now_eq, h.segment.shell.cycle]
  obtain ⟨w, hwake, hkept, hwires⟩ := h.segment.sleep (t' := v.sampled) (pc' := pollWakeIndex) hsleep (by
    rw [doStmt, pollOnce, h.unfailed.cfg, if_neg (Nat.not_le_of_lt hmore), hnow]
    rfl)
  refine ⟨w, sampleAt_succ s j ▸ hwake, ?_, ?_, ?_, ?_, ?_, h.bound⟩
  · have hsampled : Unfailed v v.sampled := ⟨⟨rfl, rfl, rfl, rfl, rfl⟩, rfl, rfl⟩
    exact (h.unfailed.trans hsampled).trans ⟨hkept.errors, hkept.cur, hwake.cfg.trans h.unfailed.cfg.symm⟩
  · exact (congrArg Wires.csN hwires).trans h.csN
  · exact hkept.wait.polls.trans h.polls_succ
  · rw [State.slept_elapsed, hkept.wait.elapsed, State.sampled_elapsed, h.elapsed, hwake.cfg, Nat.succ_mul]
  · exact hkept.wait.idleCnt ▸ hmore

end Sampling

namespace Waking
variable {s : State} {j : Nat} {w : State} (h : Waking s j w)
include h

theorem exec : exec .waitidle w = .next (pollAgain pollWakeIndex w) := h.segment.exec

/-- At the bound TIMEOUT takes the place of sample `K` (R184). -/
theorem timesOut (hbound : w.cfg.timeoutMs ≤ w.slept.elapsed) (hlast : j = maxSamples s.cfg) :
    ∃ t, WaitEnds s j w t := by
  have htimeout : TimedOut w (w.slept.raise .timeout w.cur) :=
    (raise_timedOut (s := w.slept) hbound).of_unfailed (slept_unfailed w)
  have hexec := h.exec
  rw [pollAgain_of_bound _ hbound] at hexec
  exact ⟨_, h.segment.run, h.segment.now, hexec, rfl, h.csN, .inr ⟨hlast, h.polls, htimeout.of_unfailed h.unfailed⟩⟩

/-- Short of the bound the next sample is taken (R184). -/
theorem samplesAgain (hmore : w.slept.elapsed < w.cfg.timeoutMs) (hfar : j < maxSamples s.cfg) :
    Sampling s j w w.slept where
  segment := h.segment.jump (pc' := 4) (by constructor <;> rfl) (pollAgain_of_more pollWakeIndex hmore)
  unfailed := h.unfailed.trans (slept_unfailed w)
  csN := h.csN
  polls := h.polls
  elapsed := h.elapsed
  idle := h.idle
  bound := hfar

/-- The bound is reached with the last sleep. -/
theorem next (hv : s.cfg.Valid) : (∃ t, WaitEnds s j w t) ∨ Sampling s j w w.slept := by
  have hsamples : maxSamples s.cfg ≤ j ↔ w.cfg.timeoutMs ≤ w.slept.elapsed := by
    rw [maxSamples_le_iff hv, h.elapsed, h.unfailed.cfg]
  by_cases hbound : w.cfg.timeoutMs ≤ w.slept.elapsed
  · exact .inl (h.timesOut hbound (Nat.le_antisymm h.bound (hsamples.mpr hbound)))
  · exact .inr (h.samplesAgain (Nat.lt_of_not_le hbound) (Nat.lt_of_not_le (mt hsamples.mp hbound)))

end Waking

/-- With at most `m` samples left before the bound, the wait ends. -/
theorem Sampling.ends {s : State} (hv : s.cfg.Valid) (m : Nat) : ∀ {j : Nat} {u v : State}, Sampling s j u v →
    maxSamples s.cfg ≤ j + m → ∃ j' u' t, WaitEnds s j' u' t := by
  induction m with
  | zero => exact fun h hm => absurd h.bound (Nat.not_lt_of_le hm)
  | succ m ih =>
    intro j u v h hm
    by_cases hdone : s.cfg.debounceN ≤ v.sampled.idleCnt
    · exact ⟨_, _, _, h.debounced hdone⟩
    · obtain ⟨w, hwake⟩ := h.sleeps hv (Nat.lt_of_not_le hdone)
      obtain ⟨t, hend⟩ | hnext := hwake.next hv
      · exact ⟨_, _, _, hend⟩
      · exact ih hnext (by omega)

theorem waitidle_ends {s : State} (hv : s.cfg.Valid) (h : startsNext s) : ∃ j u t, WaitEnds s j u t := by
  obtain ⟨u, v, hfirst⟩ := sampling_first hv h
  exact hfirst.ends hv (maxSamples s.cfg) (Nat.le_add_left _ _)

/-- Settles O50: from the first sample on, each is followed by the end or by the next, and the `K`-th sleep by the
end. -/
theorem waitIdleAlwaysEnds : Obligations.WaitIdleAlwaysEnds := by
  intro s hv h
  obtain ⟨j, u, t, hend⟩ := waitidle_ends hv h
  obtain hd | ⟨hj, hpolls, ht⟩ := hend.outcome
  · exact ⟨j, u, t, Nat.le_of_lt hd.bound, hend.run, hend.now, hend.exec, hend.k, hend.csN,
      .inl ⟨hd.bound, hd.idle, hd.polls, hd.errors⟩⟩
  · exact ⟨j, u, t, Nat.le_of_eq hj, hend.run, hend.now, hend.exec, hend.k, hend.csN,
      .inr ⟨hj, hpolls, ht.err, ht.eng, ht.q, ht.first⟩⟩

/-! ### A line that is never idle -/

/-- Neither the synchronizer nor a listed cycle holds the idle level. -/
structure LineBusy (s : State) : Prop where
  bsync1 : s.bsync1 ≠ s.cfg.busyIdleLevel
  bsync2 : s.bsync2 ≠ s.cfg.busyIdleLevel
  inputs : ∀ inp ∈ s.inputs, inp.busy ≠ s.cfg.busyIdleLevel

theorem LineBusy.sampleIdle {s : State} (h : LineBusy s) : s.sampleIdle = false := by
  simpa [State.sampleIdle] using h.bsync2

/-- While listed cycles are left, an edge keeps the line busy and takes one of them. -/
theorem LineBusy.opEdge {i : Instr} {s t : State} (h : LineBusy s) (hlen : s.inputs ≠ [])
    (hedge : opEdge i s = .next t) : LineBusy t ∧ t.inputs = s.inputs.tail := by
  obtain ⟨inp, rest, hinputs⟩ := List.exists_cons_of_ne_nil hlen
  have hinput : s.input = inp := by simp [State.input, hinputs]
  obtain ⟨r, hr, rfl⟩ : ∃ r, Untouched s r ∧ t = r.tick s.input.busy := by
    cases hd : s.due with
    | false => exact ⟨s, .refl s, (Host.Outcome.next.inj ((opEdge_wait hd).symm.trans hedge)).symm⟩
    | true => exact ⟨_, runProgram_shell _ s, (Host.Outcome.next.inj ((opEdge_due hd).symm.trans hedge)).symm⟩
  have hlisted := h.inputs
  rw [hinputs] at hlisted
  obtain ⟨hnow, hlater⟩ := List.forall_mem_cons.mp hlisted
  refine ⟨⟨?_, ?_, ?_⟩, by rw [State.tick_inputs, hr.inputs]⟩
  · rwa [State.tick_bsync1, State.tick_cfg, hr.cfg, hinput]
  · rw [State.tick_bsync2, State.tick_cfg, hr.bsync1, hr.cfg]
    exact h.bsync1
  · rwa [State.tick_inputs, State.tick_cfg, hr.inputs, hr.cfg, hinputs]

/-- A run through listed cycles keeps the line busy. -/
theorem LineBusy.opRun {i : Instr} (n : Nat) : ∀ {s u : State}, LineBusy s → n ≤ s.inputs.length →
    opRun i n s = .next u → LineBusy u := by
  induction n with
  | zero =>
    intro s u h _ hrun
    exact Host.Outcome.next.inj hrun ▸ h
  | succ n ih =>
    intro s u h hlen hrun
    obtain ⟨t, ht⟩ := opEdge_next i s
    simp only [Machine.opRun, ht] at hrun
    obtain ⟨hbusy, hinputs⟩ := h.opEdge (List.ne_nil_of_length_pos (by omega)) ht
    exact ih hbusy (by rw [hinputs, List.length_tail]; omega) hrun

/-- Settles O51: at the edge where it ends no sample reads idle, so the wait ends by TIMEOUT. -/
theorem waitIdleTimesOutWhenAlwaysBusy : Obligations.WaitIdleTimesOutWhenAlwaysBusy := by
  intro s hv h herr f e hb1 hb2 hlen hinputs
  obtain ⟨j, u, t, hend⟩ := waitidle_ends hv h
  obtain hd | ⟨rfl, hpolls, ht⟩ := hend.outcome
  · have hle : sampleAt s j ≤ e :=
      Nat.add_le_add_left (Nat.mul_le_mul_right _ (Nat.le_of_lt hd.bound)) _
    have hbusy := LineBusy.opRun _ ⟨hb1, hb2, hinputs⟩ (by omega) hend.run
    exact absurd hd.sampleIdle (by simp [hbusy.sampleIdle])
  · obtain ⟨hcode, hinfo⟩ := ht.first herr
    exact ⟨u, t, hend.run, hend.now, hend.exec, hpolls, ht.err, hcode, hinfo, ht.q, ht.eng, ht.k⟩

end Sys2Proof.Machine
end

section
/-! The family 43_reset_timer.md: what a segment of RESET or DELAY leaves as it was, and DELAY followed to its end. -/

namespace Sys2Proof.Config.Valid

variable {c : Config} (h : c.Valid)
include h

theorem rstLMs_pos : 1 ≤ c.rstLMs := by obtain ⟨-, -, -, -, -, -, -, -, -, h, -⟩ := h; exact h
theorem rstH2Ms_pos : 1 ≤ c.rstH2Ms := by obtain ⟨-, -, -, -, -, -, -, -, -, -, h, -⟩ := h; exact h

end Sys2Proof.Config.Valid

namespace Sys2Proof.Machine

/-! ### Frame -/

/-- Settles O37: neither op has a statement of WAIT_IDLE, one that drives the wire or one that writes `rem`, and DELAY
has none that drives RST_N. -/
theorem resetAndDelayFrame : Obligations.ResetAndDelayFrame := by
  intro s t i hi h
  have hwait : i ≠ .waitidle := by rintro rfl; simp at hi
  have hfill : ∀ n l x, i ≠ .fill n l x := by rintro n l x rfl; simp at hi
  have hwire : (programOf s.cfg i).all (fun st => !st.writesWire) = true := by
    obtain rfl | ⟨m, rfl⟩ := hi <;> rfl
  exact ⟨exec_shell h, exec_errorsKept h hwait, exec_waitKept h hwait, exec_wireKept h hwire, exec_rem h hfill,
    exec_rstN h⟩

/-! ### DELAY -/

/-- Wires that differ in CS_N, the edge it rose and RST_N at most. -/
theorem wireKept_of_wires {s t : State} {csN rstN : Bool} {rise : Option Nat}
    (hf : t.wires = { s.wires with csN := csN, tCsRise := rise, rstN := rstN }) : WireKept s t :=
  ⟨congrArg Wires.dc hf, congrArg Wires.sclk hf, congrArg Wires.mosi hf, congrArg Wires.tSclkFall hf⟩

/-- A wait of any length, none included, leaves the wires (43_reset_timer.md R200). -/
theorem Reaches.waited {i : Instr} {s : State} {e pc n : Nat} {rest : List Stmt} {f : Wires} {r : Reading}
    (h : Reaches i s e pc (.wait n :: rest) f r) : ∃ r', Reaches i s (e + n) (pc + 1) rest f r' := by
  by_cases hn : n = 0
  · subst hn
    exact ⟨r, h.go fun t hf _ => ⟨t, rfl, hf⟩⟩
  · exact ⟨_, h.wait (Nat.pos_of_ne_zero hn)⟩

/-- Settles O47: the auto-close and one wait lead to the end, and the auto-close alone moves a pin. -/
theorem delayWaitsItsMilliseconds : Obligations.DelayWaitsItsMilliseconds := by
  intro s m hv h e
  obtain ⟨r, hend⟩ := (reaches_autoClosed (i := .delay m) h rfl).waited
  obtain ⟨u, t, hrun, hnow, hexec, hk, hf, hkept⟩ := hend.ends (by simp)
  exact ⟨u, t, hrun, hnow, hexec, hk, congrArg Wires.csN hf, congrArg Wires.tCsRise hf, hkept.errors, hkept.wait,
    wireKept_of_wires hf, congrArg Wires.rem hf, congrArg Wires.rstN hf, hkept.cur⟩

end Sys2Proof.Machine
end

section
/-! The family 43_reset_timer.md: the reset events of an op followed from statement to statement, and RESET from its
first segment to its end. -/

namespace Sys2Proof.Machine

/-! ### The statements a segment executes -/

/-- The reset events of statements executed at edge `e` (00_scope.md R17). -/
def drivenAt (e : Nat) (p : List Stmt) : List (Bool × Nat) := (p.filterMap Stmt.drives).map fun v => (v, e)

@[simp] theorem drivenAt_nil (e : Nat) : drivenAt e [] = [] := rfl

theorem drivenAt_quiet {st : Stmt} (h : st.drives = none) (e : Nat) (p : List Stmt) :
    drivenAt e (st :: p) = drivenAt e p := by
  rw [drivenAt, List.filterMap_cons_none h, drivenAt]

@[simp] theorem executedFrom_nil (pc sk : Nat) (s : State) : executedFrom pc sk [] s = [] := by
  cases sk <;> rfl

section
variable {pc : Nat} {st : Stmt} {p : List Stmt} {s t : State}

theorem executedFrom_go (h : doStmt pc s st = .go t) :
    executedFrom pc 0 (st :: p) s = st :: executedFrom (pc + 1) 0 p t := by
  simp only [executedFrom, h]

theorem executedFrom_skip {n : Nat} (h : doStmt pc s st = .skip n t) :
    executedFrom pc 0 (st :: p) s = st :: executedFrom (pc + 1) n p t := by
  simp only [executedFrom, h]

theorem executedFrom_stop (h : doStmt pc s st = .stop t) : executedFrom pc 0 (st :: p) s = [st] := by
  simp only [executedFrom, h]

end

/-- Statements passed over are not executed. -/
theorem executedFrom_skipped (p : List Stmt) :
    ∀ pc n s, executedFrom pc n p s = executedFrom (pc + n) 0 (p.drop n) s := by
  induction p with
  | nil => intro pc n s; simp
  | cons st p ih =>
    intro pc n s
    cases n with
    | zero => rfl
    | succ n =>
      rw [List.drop_succ_cons, ← Nat.add_assoc, Nat.add_right_comm]
      exact ih (pc + 1) n s

/-! ### Reset events -/

/-- The reset events of a run and of its going on. -/
theorem resetEvents_add {i : Instr} (n m : Nat) : ∀ {s u : State}, opRun i n s = .next u →
    resetEvents i (n + m) s = resetEvents i n s ++ resetEvents i m u := by
  induction n with
  | zero =>
    intro s u hrun
    obtain rfl : s = u := Host.Outcome.next.inj hrun
    rw [Nat.zero_add]
    rfl
  | succ n ih =>
    intro s u hrun
    obtain ⟨t, ht⟩ := opEdge_next i s
    simp only [opRun, ht] at hrun
    rw [Nat.add_right_comm]
    simp only [resetEvents, ht, ih hrun, List.append_assoc]

/-- Up to its wake edge an op's reset events are those of the segment that wakes. -/
theorem resetEvents_wake (i : Instr) {pc : Nat} (n : Nat) : ∀ {s : State}, s.k = some ⟨s.cycle + n + 1, pc⟩ →
    resetEvents i (n + 1) s =
      drivenAt (s.cycle + n + 1) (executedFrom pc 0 ((programOf s.cfg i).drop pc) (s.pass n)) := by
  induction n with
  | zero =>
    intro s hk
    have hdue : s.due = true := State.due_true hk (Nat.le_refl _)
    simp [resetEvents, opEdge_due hdue, executedAt, hk, hdue, drivenAt]
  | succ n ih =>
    intro s hk
    have hdue : s.due = false := State.due_false hk (by omega)
    have hcycle : s.cycle + (n + 1) + 1 = (s.tick s.input.busy).cycle + n + 1 := by rw [State.tick_cycle]; omega
    have hlater := ih (s := s.tick s.input.busy) (by rw [State.tick_k, hk, hcycle])
    rw [resetEvents, opEdge_wait hdue, State.pass_succ, hcycle]
    simpa [executedAt, hk, hdue] using hlater

/-! ### An op followed with its reset events -/

/-- The op comes to statement `pc` in the segment at edge `e`, as `Segment` says, with the reset events `evs`; the
statements left that the segment executes give the other events up to this edge. -/
structure Driving (i : Instr) (s : State) (e pc : Nat) (rest : List Stmt) (u t : State) (evs : List (Bool × Nat)) :
    Prop where
  segment : Segment i s e pc rest u t
  events : resetEvents i (e - s.cycle) s = evs ++ drivenAt e (executedFrom pc 0 rest t)

theorem Driving.start {s : State} (h : startsNext s) (i : Instr) : Driving i s s.now 0 (programOf s.cfg i) s s [] where
  segment := Segment.start h i
  events := by
    rw [now_eq, Nat.add_sub_cancel_left]
    exact resetEvents_wake i 0 h

section
variable {i : Instr} {s : State} {e pc : Nat} {st : Stmt} {rest : List Stmt} {u t : State} {evs : List (Bool × Nat)}

theorem Driving.go {t' : State} (h : Driving i s e pc (st :: rest) u t evs) (hquiet : st.drives = none)
    (hst : doStmt pc t st = .go t') : Driving i s e (pc + 1) rest u t' evs where
  segment := h.segment.go hst
  events := by rw [h.events, executedFrom_go hst, drivenAt_quiet hquiet]

theorem Driving.skip {n : Nat} {t' : State} (h : Driving i s e pc (st :: rest) u t evs) (hquiet : st.drives = none)
    (hst : doStmt pc t st = .skip n t') : Driving i s e (pc + 1 + n) (rest.drop n) u t' evs where
  segment := h.segment.skip hst
  events := by rw [h.events, executedFrom_skip hst, drivenAt_quiet hquiet, executedFrom_skipped]

theorem Driving.setRstN {v : Bool} (h : Driving i s e pc (.setRstN v :: rest) u t evs) :
    Driving i s e (pc + 1) rest u { t with rstN := v } (evs ++ [(v, e)]) where
  segment := h.segment.go rfl
  events := by
    rw [h.events, executedFrom_go rfl, List.append_assoc]
    rfl

/-- The edge at which a segment suspends. -/
theorem Segment.suspended {w pc' : Nat} (h : Segment i s e pc (st :: rest) u t)
    (hst : doStmt pc t st = .stop (t.suspend w pc')) :
    ∃ v, opRun i (e - s.cycle) s = .next v ∧ v.k = some ⟨w, pc'⟩ ∧ v.cycle = e ∧ v.cfg = s.cfg := by
  have hahead := h.ahead
  have hedge : opEdge i u = .next ((t.suspend w pc').tick u.input.busy) := by
    rw [opEdge_due h.due, h.segment, runFrom_cons, hst]
  have hlen : e - s.cycle = e - 1 - s.cycle + 1 := by omega
  refine ⟨(t.suspend w pc').tick u.input.busy, ?_, rfl, ?_, h.shell.cfg.trans h.cfg⟩
  · rw [hlen]
    exact opRun_trans h.run (by simp [opRun, hedge])
  · rw [State.tick_cycle, State.suspend_cycle, h.shell.cycle, ← now_eq, h.now]

/-- A statement that waits: the op goes on at its wake edge, no event between. -/
theorem Driving.stop {d pc' : Nat} (h : Driving i s e pc (st :: rest) u t evs) (hquiet : st.drives = none)
    (hd : 1 ≤ d) (hst : doStmt pc t st = .stop (t.suspend (e + d) pc')) :
    ∃ u', Driving i s (e + d) pc' ((programOf s.cfg i).drop pc') u' u' evs ∧ u'.wires = t.wires := by
  have hahead := h.segment.ahead
  obtain ⟨u', hwake, hwires, -⟩ := h.segment.stop hd hst
  obtain ⟨v, hrun, hk, hcycle, hcfg⟩ := h.segment.suspended hst
  obtain ⟨n, rfl⟩ : ∃ n, d = n + 1 := ⟨d - 1, by omega⟩
  have hpass : u' = v.pass n := by
    have hlen : e + (n + 1) - 1 - s.cycle = e - s.cycle + n := by omega
    have hrun' := opRun_trans hrun (opRun_wait i n hk (by omega))
    rw [← hlen, hwake.run] at hrun'
    exact Host.Outcome.next.inj hrun'
  refine ⟨u', ⟨hwake, ?_⟩, hwires⟩
  have hlen : e + (n + 1) - s.cycle = e - s.cycle + (n + 1) := by omega
  have hnext := resetEvents_wake i n (s := v) (by rw [hk, hcycle]; rfl)
  rw [hcycle, hcfg, ← hpass] at hnext
  rw [hlen, resetEvents_add _ _ hrun, h.events, executedFrom_stop hst, drivenAt_quiet hquiet, drivenAt_nil,
    List.append_nil, hnext]
  rfl

theorem Driving.now (h : Driving i s e pc rest u t evs) : t.now = e := by
  rw [now_eq, h.segment.shell.cycle]
  exact h.segment.now

theorem Driving.wait {n : Nat} (h : Driving i s e pc (.wait n :: rest) u t evs) (hn : 1 ≤ n) :
    ∃ u', Driving i s (e + n) (pc + 1) rest u' u' evs ∧ u'.wires = t.wires := by
  rw [h.segment.tail_program]
  exact h.stop rfl hn (by rw [doStmt, if_neg (Nat.ne_of_gt hn), h.now])

/-- `wait_until(now >= t_sclk_fall + n)` goes on at the first edge at which it holds. -/
theorem Driving.waitFall {n : Nat} (h : Driving i s e pc (.waitFall n :: rest) u t evs) :
    ∃ u' t', Driving i s (edgeAfter t.tSclkFall n e) (pc + 1) rest u' t' evs ∧ t'.wires = t.wires := by
  by_cases hle : afterEdge t.tSclkFall n ≤ e
  · rw [edgeAfter, Nat.max_eq_left hle]
    exact ⟨u, t, h.go rfl (if_pos (h.now.symm ▸ hle)), rfl⟩
  · obtain ⟨d, hd⟩ : ∃ d, afterEdge t.tSclkFall n = e + d := ⟨_, (Nat.add_sub_of_le (by omega)).symm⟩
    obtain ⟨u', hwake, hwires⟩ := h.stop (d := d) (pc' := pc) rfl (by omega)
      (by rw [doStmt, waitUntil, h.now, if_neg hle, hd])
    have hfall : u'.tSclkFall = t.tSclkFall := congrArg Wires.tSclkFall hwires
    rw [edgeAfter, hd, Nat.max_eq_right (Nat.le_add_right e d)]
    rw [← h.segment.program] at hwake
    exact ⟨u', u', hwake.go rfl (if_pos (by rw [hwake.now, hfall, hd])), hwires⟩

end

/-- An auto-close gives no reset event (40_framer.md R135). -/
theorem Driving.autoClosed {i : Instr} {s : State} {rest : List Stmt} (h : startsNext s)
    (hprog : programOf s.cfg i = autoClose s.cfg ++ rest) :
    ∃ u t, Driving i s (autoClosedAt s s.now) 3 rest u t [] ∧
      t.wires = { s.wires with csN := true, tCsRise := riseSeen s s.now } := by
  have hstart := Driving.start h i
  rw [hprog, autoClose, List.cons_append] at hstart
  cases hcs : s.csN with
  | true =>
    simp only [autoClosedAt, riseSeen, hcs, if_true]
    exact ⟨s, s, hstart.skip rfl (if_pos hcs), by rw [← hcs]; rfl⟩
  | false =>
    obtain ⟨u, t, hover, hwires⟩ := (hstart.go rfl (if_neg (by simp [hcs]))).waitFall
    simp only [autoClosedAt, riseSeen, hcs, Bool.false_eq_true, if_false]
    refine ⟨u, { t with csN := true, tCsRise := some t.now }, hover.go rfl rfl, ?_⟩
    rw [← hwires, ← hover.now]
    rfl

/-! ### RESET -/

/-- RESET comes to its end after its three phases, with one reset event at the beginning of each (R201, R202). -/
theorem reset_reaches_end {s : State} (hv : s.cfg.Valid) (h : startsNext s) :
    let f := autoClosedAt s s.now
    let low := f + s.cfg.rstH1Ms * s.cfg.tickDiv
    let high := low + s.cfg.rstLMs * s.cfg.tickDiv
    ∃ u, Driving .reset s (high + s.cfg.rstH2Ms * s.cfg.tickDiv) 9 [] u u [(true, f), (false, low), (true, high)] ∧
      u.wires = { s.wires with csN := true, tCsRise := riseSeen s s.now, rstN := true } := by
  have htick := hv.tickDiv_pos
  obtain ⟨_, t, hclosed, hf⟩ := Driving.autoClosed (i := .reset) h rfl
  obtain ⟨u₁, hhigh₁, hf₁⟩ := hclosed.setRstN.wait (Nat.mul_pos hv.rstH1Ms_pos htick)
  obtain ⟨u₂, hlow, hf₂⟩ := hhigh₁.setRstN.wait (Nat.mul_pos hv.rstLMs_pos htick)
  obtain ⟨u₃, hhigh₂, hf₃⟩ := hlow.setRstN.wait (Nat.mul_pos hv.rstH2Ms_pos htick)
  have hwires : u₃.wires = { t.wires with rstN := true } :=
    calc u₃.wires = { u₂.wires with rstN := true } := hf₃
      _ = { u₁.wires with rstN := true } := by rw [hf₂]; rfl
      _ = { t.wires with rstN := true } := by rw [hf₁]; rfl
  exact ⟨u₃, hhigh₂, by rw [hwires, hf]⟩

/-- Settles O46: the way to the end gives the edge, the wires and the events, and no segment on it writes the rest. -/
theorem resetDrivesHighLowHigh : Obligations.ResetDrivesHighLowHigh := by
  intro s hv h c f e
  obtain ⟨u, hend, hf⟩ := reset_reaches_end hv h
  have hlow : f + (c.rstH1Ms + c.rstLMs) * c.tickDiv = f + c.rstH1Ms * c.tickDiv + c.rstLMs * c.tickDiv := by
    rw [Nat.add_mul, Nat.add_assoc]
  have hedge : e = f + c.rstH1Ms * c.tickDiv + c.rstLMs * c.tickDiv + c.rstH2Ms * c.tickDiv := by
    rw [← hlow, Nat.add_assoc, ← Nat.add_mul]
  rw [hlow, hedge]
  have hexec := hend.segment.exec_end
  have hkept := (opRun_runKept (by simp) _ hend.segment.run).trans (exec_runKept (by simp) hexec)
  exact ⟨u, u.endOp, hend.segment.run, hend.segment.now, hexec, rfl, congrArg Wires.csN hf, congrArg Wires.rstN hf,
    congrArg Wires.tCsRise hf, hend.events, hkept.errors, hkept.wait, wireKept_of_wires hf, congrArg Wires.rem hf,
    hkept.cur⟩

end Sys2Proof.Machine
end

section
/-! The family 44_host_sequences.md: the words and the traces of the host programs, frames sent row by row, and the bytes
of a frame. -/

namespace Sys2Proof.Machine

/-! ### Words and traces of the programs -/

/-- The word of a DATA: its byte in the low bits, LAST in bit 8 (30_encoding.md R104). -/
theorem encode_data_or (last : Bool) (b : Byte) :
    encode (.data last b) = (if last then 0x20000100 else 0x20000000) ||| b.setWidth 32 := by
  rw [encode, BitVec.append_def, BitVec.setWidth'_eq]
  cases last <;> rfl

theorem encode_cmd_or (b : Byte) : encode (.cmd b) = 0x10000000 ||| b.setWidth 32 := by
  rw [encode, BitVec.append_def, BitVec.setWidth'_eq]
  rfl

theorem encode_waitidle : encode .waitidle = 0x60000000 := rfl

/-- A command on a closed wire is a transaction of its own (40_framer.md R136). -/
theorem eventsFrom_cmd (b : Byte) (is : List Instr) :
    eventsFrom none (.cmd b :: is) = .transaction ⟨.command, [b]⟩ :: eventsFrom none is := rfl

/-- A command with its parameters is a command transaction and a data transaction (40_framer.md R142). -/
theorem eventsFrom_cmddOps (opc : Byte) {bs : List Byte} (h : bs ≠ []) (is : List Instr) :
    eventsFrom none (cmddOps opc bs ++ is) =
      [.transaction ⟨.command, [opc]⟩, .transaction ⟨.data, bs⟩] ++ eventsFrom none is := by
  rw [cmddOps, List.cons_append, eventsFrom_cmd, eventsFrom_sendOps none bs is h]
  rfl

/-- A flood-fill row is one data transaction (41_codec.md R166). -/
theorem eventsFrom_rowOps (c : Colour) (is : List Instr) :
    eventsFrom none (rowOps c ++ is) =
      [.transaction ⟨.data, List.replicate 400 (fillByte c)⟩] ++ eventsFrom none is := rfl

/-- Groups of ops, none of which leaves a transaction open, give their traces one after the other. -/
theorem eventsFrom_flatMap {α : Type} {f : α → List Instr} {g : α → List Event} {xs : List α}
    (h : ∀ x ∈ xs, ∀ is, eventsFrom none (f x ++ is) = g x ++ eventsFrom none is) (is : List Instr) :
    eventsFrom none (xs.flatMap f ++ is) = xs.flatMap g ++ eventsFrom none is := by
  induction xs with
  | nil => rfl
  | cons x xs ih =>
    obtain ⟨hx, hxs⟩ := List.forall_mem_cons.mp h
    rw [List.flatMap_cons, List.flatMap_cons, List.append_assoc, List.append_assoc, hx, ih hxs]

theorem initTable_ne_nil {p : PanelTable} (h : p.wf = true) : ∀ e ∈ p.initTable, e.2 ≠ [] := by
  simpa [PanelTable.wf] using h

/-- The init trace is the golden one (R226). -/
theorem eventsOf_initOps {p : PanelTable} (h : p.wf = true) : eventsOf (initOps p) = goldenInit p := by
  have htable := eventsFrom_flatMap (xs := p.initTable) (f := fun e => cmddOps e.1 e.2)
    (fun e he => eventsFrom_cmddOps e.1 (initTable_ne_nil h e he)) [.cmd OPC_PON, .waitidle]
  rw [initOps, goldenInit, List.append_assoc, List.append_assoc]
  exact congrArg ([Event.rst true, .rst false, .rst true, .idleWait, .delay SETTLE_MS] ++ ·) htable

/-- The wire shows nothing of the init program but the table's entries and power-on. -/
theorem transactionsOf_initOps {p : PanelTable} (h : p.wf = true) :
    transactionsOf (initOps p) =
      p.initTable.flatMap (fun e => [⟨.command, [e.1]⟩, ⟨.data, e.2⟩]) ++ [⟨.command, [0x04]⟩] := by
  rw [transactionsOf, eventsOf_initOps h, goldenInit, List.filterMap_append, List.filterMap_append,
    List.filterMap_flatMap]
  rfl

theorem floodOps_eq_flatMap (p : PanelTable) (c : Colour) :
    floodOps p c = [.cmd p.opcDtm] ++ (List.replicate HEIGHT c).flatMap rowOps ++ refreshOps p := by
  rw [List.flatMap_def, List.map_replicate, floodOps]

/-- The trace of a flood fill: the start command, a data transaction for each row, and the refresh (R231). -/
theorem eventsOf_floodOps (p : PanelTable) (c : Colour) :
    eventsOf (floodOps p c) =
      [.transaction ⟨.command, [p.opcDtm]⟩] ++
        List.replicate 480 (.transaction ⟨.data, List.replicate 400 (fillByte c)⟩) ++ eventsOf (refreshOps p) := by
  have hrows := eventsFrom_flatMap (xs := List.replicate HEIGHT c) (fun x _ => eventsFrom_rowOps x) (refreshOps p)
  rw [← List.map_eq_flatMap, List.map_replicate] at hrows
  rw [floodOps_eq_flatMap, List.append_assoc, List.append_assoc, List.singleton_append, List.singleton_append, eventsOf,
    eventsFrom_cmd, hrows, eventsOf, HEIGHT]

/-- Settles O55: refresh and deep sleep are computed op by op; the init table and the rows of a flood fill are groups of
ops each of which closes its transaction. -/
theorem hostProgramWordsAndTraces : Obligations.HostProgramWordsAndTraces := by
  intro p cmd data refresh init
  have hrefresh : eventsOf (refreshOps p) = refresh := rfl
  refine ⟨?_, hrefresh, congrArg (List.filterMap Event.transaction?) hrefresh, ?_, rfl, rfl,
    fun hwf => ⟨eventsOf_initOps hwf, transactionsOf_initOps hwf⟩, fun n s => ?_, fun c => ?_⟩
  · simp [refreshOps, cmddOps, sendOps, encode_data_or, encode_cmd_or, encode_waitidle]
  · simp [sleepOps, cmddOps, sendOps, encode_data_or, encode_cmd_or]
  · exact beq_iff_eq
  · rw [eventsOf_floodOps, hrefresh]

/-! ### Rows -/

/-- A `send` is its bytes as DATA, LAST on the last one only (30_encoding.md R121). -/
theorem sendOps_eq (bs : List Byte) :
    sendOps bs = bs.dropLast.map (.data false) ++ bs.getLast?.toList.map (.data true) := by
  match bs with
  | [] => rfl
  | [b] => rfl
  | b :: b' :: bs => simp [sendOps, sendOps_eq (b' :: bs)]

theorem rowsOf_length (n : Nat) : ∀ buf, (rowsOf n buf).length = n := by
  induction n with
  | zero => exact fun _ => rfl
  | succ n ih => exact fun buf => congrArg (· + 1) (ih _)

/-- A buffer of `n` rows is cut into rows of full length, which make up the buffer. -/
theorem rowsOf_partition (n : Nat) : ∀ buf, buf.length = n * ROW_BYTES →
    (∀ r ∈ rowsOf n buf, r.length = ROW_BYTES) ∧ (rowsOf n buf).flatten = buf := by
  induction n with
  | zero =>
    intro buf h
    have hnil : buf = [] := List.length_eq_zero_iff.mp (by simpa using h)
    exact ⟨by simp [rowsOf], by simp [rowsOf, hnil]⟩
  | succ n ih =>
    intro buf h
    rw [Nat.succ_mul] at h
    obtain ⟨hlength, hflatten⟩ := ih (buf.drop ROW_BYTES) (by rw [List.length_drop]; omega)
    refine ⟨List.forall_mem_cons.mpr ⟨?_, hlength⟩, ?_⟩
    · rw [List.length_take]; omega
    · rw [rowsOf, List.flatten_cons, hflatten, List.take_append_drop]

theorem flatMap_rowOps (cs : List Colour) : cs.flatMap rowOps = cs.map (.fill 400 true ·) :=
  List.map_eq_flatMap.symm

/-! ### Striped patterns -/

theorem stripeRows_cons_eq_some {y y' : Nat} {c : Colour} {rest : List (Nat × Colour)} {cs : List Colour} :
    stripeRows y ((y', c) :: rest) = some cs ↔
      (y ≤ y' ∧ y' ≤ HEIGHT) ∧ ∃ cs', stripeRows y' rest = some cs' ∧ List.replicate (y' - y) c ++ cs' = cs := by
  rw [stripeRows]
  split
  · next h => simp [h]
  · next h => simp [h]

/-- Ranges from row `y` on are taken exactly if their ends do not fall and the last is the panel's height. -/
theorem stripeRows_isSome_iff (ranges : List (Nat × Colour)) : ∀ y, (stripeRows y ranges).isSome = true ↔
    (y :: ranges.map Prod.fst).Pairwise (· ≤ ·) ∧ (y :: ranges.map Prod.fst).getLast? = some HEIGHT := by
  induction ranges with
  | nil => intro y; by_cases h : y = HEIGHT <;> simp [stripeRows, h]
  | cons range rest ih =>
    intro y
    obtain ⟨y', c⟩ := range
    have hsome : (stripeRows y ((y', c) :: rest)).isSome = true ↔
        (y ≤ y' ∧ y' ≤ HEIGHT) ∧ (stripeRows y' rest).isSome = true := by
      simp [Option.isSome_iff_exists, stripeRows_cons_eq_some]
    rw [hsome, ih y', List.map_cons, List.getLast?_cons_cons, ← List.isChain_iff_pairwise, ← List.isChain_iff_pairwise,
      List.isChain_cons_cons]
    constructor
    · rintro ⟨⟨hle, -⟩, hchain, hlast⟩
      exact ⟨⟨hle, hchain⟩, hlast⟩
    · rintro ⟨⟨hle, hchain⟩, hlast⟩
      have hmem : HEIGHT ∈ y' :: rest.map Prod.fst := List.mem_of_getLast? hlast
      have hheight : y' ≤ HEIGHT :=
        (List.mem_cons.mp hmem).elim (fun h => h.ge) (List.rel_of_pairwise_cons (List.isChain_iff_pairwise.mp hchain))
      exact ⟨⟨hle, hheight⟩, hchain, hlast⟩

/-- The rows of ranges from row `y` on reach to the panel's last row. -/
theorem stripeRows_length (ranges : List (Nat × Colour)) : ∀ {y cs}, stripeRows y ranges = some cs →
    y + cs.length = HEIGHT := by
  induction ranges with
  | nil =>
    intro y cs h
    simp only [stripeRows, Option.ite_none_right_eq_some, Option.some.injEq] at h
    obtain ⟨rfl, rfl⟩ := h
    rfl
  | cons range rest ih =>
    intro y cs h
    obtain ⟨⟨hle, -⟩, cs', hrest, rfl⟩ := stripeRows_cons_eq_some.mp h
    have hlength := ih hrest
    rw [List.length_append, List.length_replicate]
    omega

/-- Every row of a range has the colour of the range; rows are counted from row `y` on. -/
theorem stripeRows_colour (ranges : List (Nat × Colour)) : ∀ {y cs}, stripeRows y ranges = some cs →
    ∀ {j a b : Nat} {c : Colour}, (y :: ranges.map Prod.fst)[j]? = some a → ranges[j]? = some (b, c) →
      ∀ {row}, a ≤ y + row → y + row < b → cs[row]? = some c := by
  induction ranges with
  | nil => intro y cs _ j a b c _ hrange; simp at hrange
  | cons range rest ih =>
    intro y cs h j a b c hbound hrange row ha hb
    obtain ⟨y', c'⟩ := range
    obtain ⟨⟨hle, -⟩, cs', hrest, rfl⟩ := stripeRows_cons_eq_some.mp h
    cases j with
    | zero =>
      simp only [List.getElem?_cons_zero, Option.some.injEq, Prod.mk.injEq] at hrange
      obtain ⟨rfl, rfl⟩ := hrange
      rw [List.getElem?_append_left (by rw [List.length_replicate]; omega), List.getElem?_replicate,
        if_pos (by omega)]
    | succ j =>
      simp only [List.map_cons, List.getElem?_cons_succ] at hbound hrange
      obtain ⟨hsorted, -⟩ := (stripeRows_isSome_iff rest y').mp (by rw [hrest]; rfl)
      have hfrom : y' ≤ a := (List.mem_cons.mp (List.mem_of_getElem? hbound)).elim (fun h => h.ge)
        (List.rel_of_pairwise_cons hsorted)
      rw [List.getElem?_append_right (by rw [List.length_replicate]; omega), List.length_replicate]
      exact ih hrest hbound hrange (by omega) (by omega)

theorem stripeOps_eq_some {p : PanelTable} {ranges : List (Nat × Colour)} {ops : List Instr} :
    stripeOps p ranges = some ops ↔
      ∃ cs, stripeRows 0 ranges = some cs ∧ [.cmd p.opcDtm] ++ cs.flatMap rowOps ++ refreshOps p = ops :=
  Option.map_eq_some_iff

/-- Settles O56: a transfer by the rows the buffer is cut into, a striped pattern by its ranges one after the other. -/
theorem framesAreSentRowByRow : Obligations.FramesAreSentRowByRow := by
  refine fun p => ⟨fun buf h => if_neg h, fun buf h => ?_, fun c => ?_, fun ranges => ⟨?_, fun ops hops => ?_⟩⟩
  · obtain ⟨hlength, hflatten⟩ := rowsOf_partition HEIGHT buf h
    refine ⟨rowsOf HEIGHT buf, rowsOf_length HEIGHT buf, hlength, hflatten, ?_⟩
    rw [transferOps, if_pos (show buf.length = FRAME_BYTES from h)]
    simp only [← sendOps_eq]
  · rw [floodOps_eq_flatMap, flatMap_rowOps, List.map_replicate]
    rfl
  · rw [stripeOps, Option.isSome_map, stripeRows_isSome_iff]
    rfl
  · obtain ⟨cs, hcs, rfl⟩ := stripeOps_eq_some.mp hops
    refine ⟨cs, by simpa [HEIGHT] using stripeRows_length ranges hcs, by rw [flatMap_rowOps], ?_⟩
    intro j y y' c hbound hrange row hy hy'
    exact stripeRows_colour ranges hcs hbound hrange (by omega) (by omega)

/-! ### The bytes of a frame -/

theorem pack_left : ∀ l r : Colour, (pack l r).extractLsb' 4 3 = l := by decide

theorem pack_right : ∀ l r : Colour, (pack l r).extractLsb' 0 3 = r := by decide

theorem frameOf_getElem? (image : Nat → Nat → Colour) {i : Nat} (h : i < FRAME_BYTES) :
    (frameOf image)[i]? = some (pack (image (frameRow i) (frameColumn i)) (image (frameRow i) (frameColumn i + 1))) := by
  rw [frameOf, List.getElem?_map, List.getElem?_range h, Option.map_some]

theorem frameRow_frameIndex {x : Nat} (hx : x < WIDTH) (y : Nat) : frameRow (frameIndex x y) = y := by
  simp only [frameRow, frameIndex, ROW_BYTES, WIDTH] at hx ⊢
  omega

theorem frameColumn_frameIndex {x : Nat} (hx : x < WIDTH) (y : Nat) :
    frameColumn (frameIndex x y) = x - x % 2 := by
  simp only [frameColumn, frameIndex, ROW_BYTES, WIDTH] at hx ⊢
  omega

theorem frameIndex_lt {x y : Nat} (hx : x < WIDTH) (hy : y < HEIGHT) : frameIndex x y < FRAME_BYTES := by
  simp only [frameIndex, ROW_BYTES, FRAME_BYTES, WIDTH, HEIGHT] at hx hy ⊢
  omega

/-- Settles O57: the byte with a pixel's index packs the pixel and its neighbour, an even column on the left. -/
theorem frameBytesHoldTheirPixels : Obligations.FrameBytesHoldTheirPixels := by
  refine fun image => ⟨by rw [frameOf, List.length_map, List.length_range, FRAME_BYTES], fun x y hx hy => ?_⟩
  refine ⟨_, frameOf_getElem? image (frameIndex_lt hx hy), frameRow_frameIndex hx y, frameColumn_frameIndex hx y, ?_⟩
  rw [frameRow_frameIndex hx, frameColumn_frameIndex hx]
  split
  · next heven => rw [pack_left, heven, Nat.sub_zero]
  · next hodd => rw [pack_right, show x - x % 2 + 1 = x by omega]

end Sys2Proof.Machine
end

section
/-! The family 44_host_sequences.md: the duties the host programs keep, over whole sessions too. -/

namespace Sys2Proof.Machine

/-! ### Programs made to the letter -/

/-- An op that is made to the letter stands for itself: it is no other op's data and no NOP. -/
def StandsForItself (i : Instr) : Prop := asData i = i ∧ i ≠ .nop

theorem standsForItself_of_owed {i : Instr} (h : isOwed i = true) : StandsForItself i := by
  cases i <;> simp_all [isOwed, StandsForItself, asData]

theorem sendOps_standForThemselves (bs : List Byte) : ∀ i ∈ sendOps bs, StandsForItself i := fun i hi =>
  standsForItself_of_owed (List.all_eq_true.mp (sendOps_all_owed bs) i hi)

theorem after_initialising_self (p : PanelTable) {i : Instr} (h : StandsForItself i) (rest : List Instr) :
    Duty.after p (.initialising (i :: rest)) i = some (if rest.isEmpty then .ready false else .initialising rest) := by
  obtain ⟨hself, hnop⟩ := h
  have htake : Duty.after p (.initialising (i :: rest)) i = takeOwed (i :: rest) i .initialising (.ready false) := by
    cases i with
    | nop => exact absurd rfl hnop
    | _ => rfl
  rw [htake, takeOwed_cons, if_pos hself]

/-- Ops that are owed by `init`, made to the letter, leave nothing owed. -/
theorem dutyAfter_initialising_self (p : PanelTable) {ops : List Instr} (h : ∀ i ∈ ops, StandsForItself i)
    (hne : ops ≠ []) : dutyAfter p (.initialising ops) ops = some (.ready false) := by
  induction ops with
  | nil => exact absurd rfl hne
  | cons i rest ih =>
    obtain ⟨hi, hrest⟩ := List.forall_mem_cons.mp h
    rw [dutyAfter_cons, after_initialising_self p hi]
    cases rest with
    | nil => rfl
    | cons j rest' => exact ih hrest (List.cons_ne_nil j rest')

theorem initOps_standForThemselves (p : PanelTable) : ∀ i ∈ initOps p, StandsForItself i := by
  have hcmdd : ∀ e : Byte × List Byte, ∀ i ∈ cmddOps e.1 e.2, StandsForItself i := fun e =>
    List.forall_mem_cons.mpr ⟨standsForItself_of_owed rfl, sendOps_standForThemselves e.2⟩
  intro i hi
  simp only [initOps, List.mem_append, List.mem_cons, List.mem_flatMap, List.not_mem_nil, or_false] at hi
  obtain ((rfl | rfl | rfl) | ⟨e, -, he⟩) | (rfl | rfl) := hi
  · exact ⟨rfl, by simp⟩
  · exact standsForItself_of_owed rfl
  · exact ⟨rfl, by simp⟩
  · exact hcmdd e i he
  · exact standsForItself_of_owed rfl
  · exact standsForItself_of_owed rfl

/-- The init program takes a panel in which RESET begins `init` to ready (R225). -/
theorem dutyAfter_initOps {p : PanelTable} {d : Duty} (h : d.after p .reset = some (.initialising (initOps p).tail)) :
    dutyAfter p d (initOps p) = some (.ready false) := by
  have hcons : initOps p = .reset :: (initOps p).tail := rfl
  rw [hcons, dutyAfter_cons, h]
  exact dutyAfter_initialising_self p (fun i hi => initOps_standForThemselves p i (List.mem_of_mem_tail hi))
    (List.cons_ne_nil _ _)

/-! ### Refresh and deep sleep -/

/-- A phase of the refresh, a busy-causing command with its data and the wait it leaves owing, leads from ready to
ready (R235). -/
theorem dutyAfter_phase {p : PanelTable} {b : Byte} {bs : List Byte}
    (hb : dutyOfCommand p b = .owing (sendOps bs ++ [.waitidle])) (opened : Bool) (more : List Instr) :
    dutyAfter p (.ready opened) (cmddOps b bs ++ ([.waitidle] ++ more)) = dutyAfter p (.ready false) more := by
  have hcmd : Duty.after p (.ready opened) (.cmd b) = some (dutyOfCommand p b) := rfl
  have howed : (sendOps bs ++ [Instr.waitidle]).all isOwed = true := by simp [sendOps_all_owed, isOwed]
  rw [cmddOps, List.cons_append, ← List.append_assoc, dutyAfter_cons, hcmd, hb, Option.bind_some, dutyAfter_append,
    dutyAfter_owing_self p _ howed (by simp), Option.bind_some]

/-- The four phases lead from ready to ready (R227). -/
theorem dutyAfter_refreshOps (p : PanelTable) (opened : Bool) :
    dutyAfter p (.ready opened) (refreshOps p) = some (.ready false) := by
  simp only [refreshOps, List.append_assoc]
  exact (dutyAfter_phase (b := OPC_PON) (bs := []) rfl opened _).trans <|
    (dutyAfter_phase rfl false _).trans <| (dutyAfter_phase rfl false _).trans (dutyAfter_phase rfl false [])

theorem dutyAfter_sleepOps (p : PanelTable) (opened : Bool) :
    dutyAfter p (.ready opened) (sleepOps p) = some .asleep := by
  have hdata : Duty.after p (.sleeping [.data true p.p07]) (.data true p.p07) = some .asleep := if_pos rfl
  have hcmd : Duty.after p (.ready opened) (.cmd OPC_SLEEP) = some (.sleeping [.data true p.p07]) := rfl
  rw [sleepOps, cmddOps, dutyAfter_cons, hcmd, Option.bind_some, sendOps, dutyAfter_cons, hdata]
  rfl

/-! ### Frames -/

theorem after_frame_data {p : PanelTable} {i : Instr} {n : Nat} {last : Bool} (h : dataCount i = some (n, last))
    (sent : Nat) : Duty.after p (.frame sent) i = dutyOfFrameData p sent n last := by
  cases i <;> simp_all [dataCount, Duty.after]

/-- What is owed when `k` rows of a frame have been sent. -/
def dutyAfterRows (p : PanelTable) (k : Nat) : Duty :=
  if k = HEIGHT then .owing (refreshOps p) else .frame (k * ROW_BYTES)

/-- Data that stays short of the end of row `k` leaves the row under way. -/
theorem dutyOfFrameData_within (p : PanelTable) {k m n : Nat} (hk : k < HEIGHT) (h : m + n < ROW_BYTES) :
    dutyOfFrameData p (k * ROW_BYTES + m) n false = some (.frame (k * ROW_BYTES + (m + n))) := by
  have hrow : (k * ROW_BYTES + m) / ROW_BYTES = k := by rw [ROW_BYTES] at h ⊢; omega
  have hshort : k * ROW_BYTES + (m + n) < (k + 1) * ROW_BYTES := by rw [Nat.succ_mul]; omega
  have hmore : k * ROW_BYTES + (m + n) ≠ FRAME_BYTES := by
    rw [HEIGHT] at hk
    rw [ROW_BYTES] at hshort ⊢
    rw [FRAME_BYTES]
    omega
  simp only [dutyOfFrameData, hrow, Nat.add_assoc (k * ROW_BYTES), hshort.le, hshort.ne, hmore, Bool.false_eq_true,
    and_self, if_true, if_false]

/-- Data that ends exactly with row `k`, with LAST, ends the row. -/
theorem dutyOfFrameData_ends (p : PanelTable) {k m n : Nat} (hn : m < ROW_BYTES) (h : m + n = ROW_BYTES) :
    dutyOfFrameData p (k * ROW_BYTES + m) n true = some (dutyAfterRows p (k + 1)) := by
  have hrow : (k * ROW_BYTES + m) / ROW_BYTES = k := by rw [ROW_BYTES] at hn ⊢; omega
  have hsent : k * ROW_BYTES + m + n = (k + 1) * ROW_BYTES := by rw [Nat.add_assoc, h, Nat.succ_mul]
  have hlast : (k + 1) * ROW_BYTES = FRAME_BYTES ↔ k + 1 = HEIGHT := by
    rw [ROW_BYTES, FRAME_BYTES, HEIGHT]; omega
  simp only [dutyOfFrameData, hrow, hsent, le_refl, true_and, if_true, hlast, dutyAfterRows]

theorem dutyAfter_rowOps (p : PanelTable) (k : Nat) (c : Colour) :
    dutyAfter p (.frame (k * ROW_BYTES)) (rowOps c) = some (dutyAfterRows p (k + 1)) := by
  rw [rowOps, dutyAfter_cons, after_frame_data rfl,
    show (BitVec.ofNat 16 ROW_BYTES).toNat = ROW_BYTES from rfl]
  have hends := dutyOfFrameData_ends p (k := k) (m := 0) (by decide) (Nat.zero_add ROW_BYTES)
  rw [Nat.add_zero] at hends
  rw [hends]
  rfl

/-- One `send` of the bytes that row `k` still lacks ends the row. -/
theorem dutyAfter_sendOps (p : PanelTable) {k : Nat} (hk : k < HEIGHT) : ∀ (bs : List Byte) (m : Nat), bs ≠ [] →
    m + bs.length = ROW_BYTES →
    dutyAfter p (.frame (k * ROW_BYTES + m)) (sendOps bs) = some (dutyAfterRows p (k + 1))
  | [], _, hne, _ => absurd rfl hne
  | [b], m, _, h => by
    rw [List.length_singleton] at h
    rw [sendOps, dutyAfter_cons, after_frame_data rfl, dutyOfFrameData_ends p (by omega) h]
    rfl
  | b :: b' :: bs, m, _, h => by
    rw [List.length_cons] at h
    have hlen : 1 ≤ (b' :: bs).length := Nat.succ_le_succ (Nat.zero_le _)
    rw [sendOps, dutyAfter_cons, after_frame_data rfl, dutyOfFrameData_within p hk (by omega), Option.bind_some]
    exact dutyAfter_sendOps p hk (b' :: bs) (m + 1) (List.cons_ne_nil _ _) (by omega)

/-- Rows sent one after the other, to the last, leave the refresh owed. -/
theorem dutyAfter_rows {α : Type} {p : PanelTable} {f : α → List Instr} (xs : List α)
    (hrow : ∀ x ∈ xs, ∀ k < HEIGHT, dutyAfter p (.frame (k * ROW_BYTES)) (f x) = some (dutyAfterRows p (k + 1))) :
    ∀ k, k + xs.length = HEIGHT → dutyAfter p (dutyAfterRows p k) (xs.flatMap f) = some (.owing (refreshOps p)) := by
  induction xs with
  | nil => intro k hk; exact congrArg some (if_pos hk)
  | cons x xs ih =>
    intro k hk
    obtain ⟨hx, hxs⟩ := List.forall_mem_cons.mp hrow
    rw [List.length_cons] at hk
    have hlt : k < HEIGHT := by omega
    rw [List.flatMap_cons, dutyAfter_append, dutyAfterRows, if_neg hlt.ne, hx k hlt]
    exact ih hxs (k + 1) (by omega)

theorem dutyOfCommand_dtm {p : PanelTable} (h : p.opcDtm ∉ [0x04, 0x06, 0x12, 0x02, 0x07]) :
    dutyOfCommand p p.opcDtm = .frame 0 := by
  simp only [List.mem_cons, List.not_mem_nil, or_false, not_or] at h
  obtain ⟨h04, h06, h12, h02, h07⟩ := h
  rw [dutyOfCommand, if_neg h04, if_neg h06, if_neg h12, if_neg h02, if_neg h07, if_pos rfl]

/-- The start command, the rows of a frame and the refresh lead from ready to ready (R230, R231). -/
theorem dutyAfter_frame {α : Type} {p : PanelTable} {f : α → List Instr} {xs : List α}
    (hp : p.opcDtm ∉ [0x04, 0x06, 0x12, 0x02, 0x07])
    (hrow : ∀ x ∈ xs, ∀ k < HEIGHT, dutyAfter p (.frame (k * ROW_BYTES)) (f x) = some (dutyAfterRows p (k + 1)))
    (hlength : xs.length = HEIGHT) (opened : Bool) :
    dutyAfter p (.ready opened) ([.cmd p.opcDtm] ++ xs.flatMap f ++ refreshOps p) = some (.ready false) := by
  have hcmd : dutyAfter p (.ready opened) [.cmd p.opcDtm] = some (dutyAfterRows p 0) :=
    congrArg some (dutyOfCommand_dtm hp)
  have hrefresh : (refreshOps p).all isOwed = true := by simp [refreshOps, cmddOps, isOwed, sendOps_all_owed]
  rw [dutyAfter_append, dutyAfter_append, hcmd, Option.bind_some, dutyAfter_rows xs hrow 0 (by omega)]
  exact dutyAfter_owing_self p _ hrefresh (List.cons_ne_nil _ _)

section
variable {p : PanelTable} (hp : p.opcDtm ∉ [0x04, 0x06, 0x12, 0x02, 0x07]) (opened : Bool)
include hp

theorem dutyAfter_floodOps (c : Colour) : dutyAfter p (.ready opened) (floodOps p c) = some (.ready false) := by
  rw [floodOps_eq_flatMap]
  exact dutyAfter_frame hp (fun x _ k _ => dutyAfter_rowOps p k x) List.length_replicate opened

theorem dutyAfter_stripeOps {ranges : List (Nat × Colour)} {ops : List Instr} (h : stripeOps p ranges = some ops) :
    dutyAfter p (.ready opened) ops = some (.ready false) := by
  obtain ⟨cs, hcs, rfl⟩ := stripeOps_eq_some.mp h
  have hlength := stripeRows_length ranges hcs
  exact dutyAfter_frame hp (fun x _ k _ => dutyAfter_rowOps p k x) (by omega) opened

theorem dutyAfter_transferOps {buf : List Byte} {ops : List Instr} (h : transferOps p buf = some ops) :
    dutyAfter p (.ready opened) ops = some (.ready false) := by
  simp only [transferOps, Option.ite_none_right_eq_some, Option.some.injEq] at h
  obtain ⟨hbuf, rfl⟩ := h
  obtain ⟨hrows, -⟩ := rowsOf_partition HEIGHT buf hbuf
  refine dutyAfter_frame hp (fun r hr k hk => ?_) (rowsOf_length HEIGHT buf) opened
  have hlength := hrows r hr
  have hsend := dutyAfter_sendOps p hk r 0 (List.ne_nil_of_length_pos (by rw [hlength]; decide)) (by omega)
  rwa [Nat.add_zero] at hsend

end

/-! ### Sessions in which every call succeeds -/

/-- What the panel is owed between two calls, by its life. `failed` is never the life of a session in which every call
succeeds, and takes the calls that `ready` takes. -/
def Life.duty : Life → Duty
  | .fresh => .uninitialised
  | .ready => .ready false
  | .failed => .ready false
  | .asleep => .asleep

theorem Life.duty_settled (l : Life) : l.duty.settled = true := by cases l <;> rfl

theorem Life.after_without_init {l : Life} {c : Call} (hl : l = .fresh ∨ l = .asleep) (hc : c ≠ .init) :
    l.after c = none := by
  obtain rfl | rfl := hl
  all_goals
    cases c with
    | init => exact absurd rfl hc
    | _ => rfl

/-- A frame operation or deep sleep is allowed only to a panel that is owed nothing. -/
theorem Life.duty_before {l l' : Life} {c : Call} (h : l.after c = some l') (hc : c ≠ .init) : l.duty = .ready false := by
  cases l with
  | ready => rfl
  | failed => rfl
  | fresh => simp [Life.after_without_init (.inl rfl) hc] at h
  | asleep => simp [Life.after_without_init (.inr rfl) hc] at h

/-- A call leaves a panel that is owed nothing, or one that sleeps. -/
theorem Life.duty_after {l l' : Life} {c : Call} (h : l.after c = some l') :
    l'.duty = if c = .deepSleep then .asleep else .ready false := by
  cases c <;> cases l <;> cases h <;> rfl

theorem call_ops_init {p : PanelTable} {ops : List Instr} (h : Call.ops p .init = some ops) : ops = initOps p := by
  simp only [Call.ops, Option.ite_none_right_eq_some, Option.some.injEq] at h
  exact h.2.symm

/-- The ops of a call that the life of the panel allows keep every duty, and leave what the life then says. -/
theorem dutyAfter_call {p : PanelTable} (hp : p.opcDtm ∉ [0x04, 0x06, 0x12, 0x02, 0x07]) {l l' : Life} {c : Call}
    {ops : List Instr} (h : l.after c = some l') (hops : c.ops p = some ops) :
    dutyAfter p l.duty ops = some l'.duty := by
  rw [Life.duty_after h]
  cases c with
  | init =>
    rw [call_ops_init hops]
    cases l <;> cases h <;> exact dutyAfter_initOps rfl
  | flood colour =>
    rw [Life.duty_before h (by simp), ← Option.some.inj hops]
    exact dutyAfter_floodOps hp false colour
  | stripes ranges =>
    rw [Life.duty_before h (by simp)]
    exact dutyAfter_stripeOps hp false hops
  | transfer buf =>
    rw [Life.duty_before h (by simp)]
    exact dutyAfter_transferOps hp false hops
  | deepSleep =>
    rw [Life.duty_before h (by simp), ← Option.some.inj hops]
    exact dutyAfter_sleepOps p false

theorem sessionOps_cons_eq_some {p : PanelTable} {l : Life} {c : Call} {cs : List Call} {opss : List (List Instr)} :
    sessionOps p l (c :: cs) = some opss ↔
      ∃ l' ops rest, l.after c = some l' ∧ c.ops p = some ops ∧ sessionOps p l' cs = some rest ∧ ops :: rest = opss := by
  rw [sessionOps]
  cases l.after c <;> cases c.ops p <;> simp

/-- A session keeps every duty on the way and ends where the life of the panel says. -/
theorem dutyAfter_session {p : PanelTable} (hp : p.opcDtm ∉ [0x04, 0x06, 0x12, 0x02, 0x07]) (calls : List Call) :
    ∀ {l : Life} {opss}, sessionOps p l calls = some opss →
      ∃ l' : Life, dutyAfter p l.duty opss.flatten = some l'.duty := by
  induction calls with
  | nil =>
    intro l opss h
    cases h
    exact ⟨l, rfl⟩
  | cons c cs ih =>
    intro l opss h
    obtain ⟨l', ops, rest, hlife, hops, hrest, rfl⟩ := sessionOps_cons_eq_some.mp h
    obtain ⟨l'', hend⟩ := ih hrest
    exact ⟨l'', by rw [List.flatten_cons, dutyAfter_append, dutyAfter_call hp hlife hops, Option.bind_some, hend]⟩

/-! ### What the checker and the lifecycle refuse -/

theorem after_owing_waitidle {p : PanelTable} {i : Instr} (rest : List Instr) (hnop : i ≠ .nop) (hwait : i ≠ .waitidle)
    (hdelay : ∀ m, i ≠ .delay m) : Duty.after p (.owing (.waitidle :: rest)) i = none := by
  have hother : asData i ≠ .waitidle := by
    cases i with
    | fill n last c => rw [asData]; split <;> simp
    | waitidle => exact absurd rfl hwait
    | _ => simp [asData]
  have htake : Duty.after p (.owing (.waitidle :: rest)) i = takeOwed (.waitidle :: rest) i .owing (.ready false) := by
    cases i with
    | nop => exact absurd rfl hnop
    | delay m => exact absurd rfl (hdelay m)
    | _ => rfl
  rw [htake, takeOwed_cons, if_neg hother]

theorem after_before_reset {p : PanelTable} {i : Instr} {d : Duty} (hd : d = .uninitialised ∨ d = .asleep)
    (hnop : i ≠ .nop) (hreset : i ≠ .reset) (hdelay : ∀ m, i ≠ .delay m) : Duty.after p d i = none := by
  obtain rfl | rfl := hd
  all_goals
    cases i with
    | nop => exact absurd rfl hnop
    | reset => exact absurd rfl hreset
    | delay m => exact absurd rfl (hdelay m)
    | _ => rfl

theorem keepsDuties_of_open {p : PanelTable} {d : Duty} {ops : List Instr} (h : dutyAfter p d ops = some (.ready true)) :
    keepsDuties p d ops = false := by
  rw [keepsDuties, h]
  rfl

/-! ### The next call of a session -/

theorem lifeNow_eq_some_iff {g : Session} {l : Life} :
    g.lifeNow = some l ↔ ∃ r, g.host.phase = .done r ∧ g.life.ended g.call r = l := by
  rw [Session.lifeNow]
  cases g.host.phase <;> simp

theorem lifeNow_of_done {g : Session} {r : CallResult} (h : g.host.phase = .done r) :
    g.lifeNow = some (g.life.ended g.call r) := lifeNow_eq_some_iff.mpr ⟨r, h, rfl⟩

/-- The session goes on from the end of a call to any call that the panel's life allows and whose arguments are taken. -/
theorem session_next_of_done {p : PanelTable} {g : Session} {c : Call} {r : CallResult} {l' : Life} {ops : List Instr}
    (hr : g.host.phase = .done r) (hlife : (g.life.ended g.call r).after c = some l') (hops : c.ops p = some ops) :
    ∃ g', g.next p c = some g' ∧ g'.life = g.life.ended g.call r := by
  simp [Session.next, lifeNow_of_done hr, hlife, hops, HostState.nextCall, hr]

/-- An `init` begun in a panel that is not ready leaves it ready if it succeeds, and waiting for `init` if it fails
(70_reset_and_hazards.md R295). -/
theorem Life.ended_init {l : Life} (hl : l ≠ .ready) (r : CallResult) :
    l.ended .init r = if r = .success then .ready else .fresh := by
  cases l with
  | ready => exact absurd rfl hl
  | _ => rfl

theorem session_next_none_of_not_done {p : PanelTable} {g : Session} (h : ∀ r, g.host.phase ≠ .done r) (c : Call) :
    g.next p c = none := by
  refine Option.eq_none_iff_forall_not_mem.mpr fun g' hg' => ?_
  obtain ⟨l, -, -, hlife, -⟩ := session_next_eq_some hg'
  obtain ⟨r, hr, -⟩ := lifeNow_eq_some_iff.mp hlife
  exact h r hr

theorem session_next_none_of_life {p : PanelTable} {g : Session} {c : Call} {l : Life} (hl : g.lifeNow = some l)
    (hc : l.after c = none) : g.next p c = none := by
  rw [Session.next, hl]
  simp only [hc]

/-- The actions of a call end with its op words and `sync`. -/
theorem exists_actions_eq (h : HostState) (ops : List Instr) : ∃ before, h.actions ops = before ++ callOf ops := by
  unfold HostState.actions
  split
  · exact ⟨[], rfl⟩
  · exact ⟨[startAction], rfl⟩

/-- Written again is only a call that failed, from a point not past the actions known to be over. -/
theorem writeAgain_eq_some {h h' : HostState} {point : Nat} (e : h.writeAgain point = some h') :
    h.mustClear = true ∧ point ≤ h.sure ∧ h.nextCall (h.call.drop point) = some h' := by
  simp only [HostState.writeAgain, Option.ite_none_right_eq_some] at e
  obtain ⟨⟨hclear, hle⟩, hnext⟩ := e
  exact ⟨hclear, hle, hnext⟩

/-- After a call that failed the next one begins with the clear of ERR (60_exceptions.md R258). -/
theorem nextCall_clears_first {h h' : HostState} {call : List HostAction} (hclear : h.mustClear = true)
    (e : h.nextCall call = some h') : h' = .begin h.ctrl (clearAction :: call) := by
  rw [(nextCall_eq_some e).2, if_pos hclear]

theorem session_next_begins_call {p : PanelTable} {g g' : Session} {c : Call} (h : g.next p c = some g') :
    g'.call = c ∧ some g'.life = g.lifeNow ∧ (g'.life = .fresh ∨ g'.life = .asleep → c = .init) ∧
    ∃ ops before, c.ops p = some ops ∧ g'.host.call = before ++ callOf ops := by
  obtain ⟨l, host, ops, hlife, hafter, hops, hnext, rfl⟩ := session_next_eq_some h
  refine ⟨rfl, hlife.symm, fun hl => by_contra fun hc => ?_, ops, ?_⟩
  · simp [Life.after_without_init hl hc] at hafter
  · obtain ⟨before, hbefore⟩ := exists_actions_eq g.host ops
    obtain ⟨-, rfl⟩ := nextCall_eq_some hnext
    rw [hbefore]
    cases g.host.mustClear with
    | true => exact ⟨clearAction :: before, hops, rfl⟩
    | false => exact ⟨before, hops, rfl⟩

theorem session_again_same_call {g g' : Session} {point : Nat} (h : g.again point = some g') :
    g'.call = g.call ∧ g'.life = g.life ∧ (g.call = .init → point = 0 ∧ g'.host.call.tail = g.host.call) := by
  simp only [Session.again, Option.ite_none_left_eq_some, Option.map_eq_some_iff] at h
  obtain ⟨hpoint, host, hagain, rfl⟩ := h
  refine ⟨rfl, rfl, fun hinit => ?_⟩
  have hzero : point = 0 := by_contra fun hne => hpoint ⟨hinit, hne⟩
  subst hzero
  obtain ⟨hclear, -, hnext⟩ := writeAgain_eq_some hagain
  exact ⟨rfl, by rw [nextCall_clears_first hclear hnext]; rfl⟩

/-- Settles O58: each program is led through its duties part by part, a session call by call, and what comes next is
told by the life in which the last call has ended. -/
theorem programsPutTheirWaits : Obligations.ProgramsPutTheirWaits := by
  refine fun p hp => ⟨dutyAfter_initOps rfl, dutyAfter_initOps rfl, fun opened => ⟨dutyAfter_refreshOps p opened,
    dutyAfter_floodOps hp opened, fun _ _ => dutyAfter_stripeOps hp opened, fun _ _ => dutyAfter_transferOps hp opened,
    dutyAfter_sleepOps p opened, rfl⟩, fun _ => rfl, fun calls opss hsession => ?_,
    fun _ rest => after_owing_waitidle rest, fun _ _ => after_before_reset,
    fun _ hc => ⟨Life.after_without_init (.inl rfl) hc, Life.after_without_init (.inr rfl) hc⟩, rfl,
    fun _ => keepsDuties_of_open, fun hwf => if_pos hwf, fun _ c h => session_next_none_of_not_done h c,
    fun g c r hr hfailed hcall hlife hc => ?_, fun _ _ _ => session_next_begins_call, fun _ _ _ => session_again_same_call,
    fun g c ops hr hcall hlife hc hops => ?_⟩
  · obtain ⟨l, hend⟩ := dutyAfter_session hp calls hsession
    rw [keepsDuties, show Duty.uninitialised = Life.fresh.duty from rfl, hend]
    exact l.duty_settled
  · have hended : g.lifeNow = some .fresh := by
      rw [lifeNow_of_done hr, hcall, Life.ended_init hlife, if_neg hfailed]
    exact session_next_none_of_life hended (Life.after_without_init (.inl rfl) hc)
  · have hended : g.life.ended g.call .success = .ready := by
      rw [hcall, Life.ended_init (by rintro h; simp [h] at hlife), if_pos rfl]
    obtain ⟨l', hafter⟩ : ∃ l', Life.after .ready c = some l' := by
      cases c with
      | init => exact absurd rfl hc
      | _ => exact ⟨_, rfl⟩
    obtain ⟨g', hnext, hg'⟩ := session_next_of_done hr (by rw [hended]; exact hafter) hops
    exact ⟨g', hnext, hg'.trans hended⟩

end Sys2Proof.Machine
end

section
/-! The family 44_host_sequences.md: what the host learns and does in one cycle, and the flow control it keeps. -/

namespace Sys2Proof.Machine

/-! ### The queue over an edge -/

theorem nextQueue_nothing_length_le (q : List Word) (flush dispatched : Bool) :
    (nextQueue q flush dispatched .nothing).length ≤ q.length := by
  cases flush <;> cases dispatched <;> simp [nextQueue]

/-- At an edge the queue grows by one word at most. -/
theorem nextQueue_length_le_succ (q : List Word) (flush dispatched : Bool) (o : Offer) :
    (nextQueue q flush dispatched o).length ≤ q.length + 1 := by
  have hle := nextQueue_nothing_length_le q flush dispatched
  cases o with
  | push w =>
    cases flush <;> simp [nextQueue_push, hle]
  | nothing | drop | overflow w => exact hle.trans (Nat.le_succ _)

/-! ### STATUS as the host reads it -/

/-- What the host takes from STATUS (10_state.md R36): ERR, QCOUNT, IDLE, and the op words in the queue or running. -/
structure StatusRead (s : State) (st : Word) : Prop where
  err : st.getLsbD 5 = s.err
  count : (st.extractLsb' 16 8).toNat = s.q.length
  idle : st.getLsbD 0 = true → s.isIdle = true
  unfinished : unfinished st = s.q.length + if s.eng = .idle then 0 else 1

theorem statusValue_read {s : State} (hq : s.q.length ≤ 255) : StatusRead s s.statusValue := by
  obtain ⟨-, hidle, hactive, -, -, -, herr, -, -, -, hcount, -⟩ := statusShowsItsFields s hq
  refine ⟨herr, hcount, fun h => ?_, ?_⟩
  · obtain ⟨heng, hlen⟩ := hidle.mp h
    simp [State.isIdle, heng, List.length_eq_zero_iff.mp hlen]
  · rw [unfinished, hcount]
    simp only [hactive]
    split <;> simp_all

theorem resultOfCode_ne_success (code : BitVec 3) : resultOfCode code ≠ .success := by
  unfold resultOfCode
  split
  · simp
  · split <;> simp

/-! ### The actions known to be over -/

/-- The actions known to be over are among those made, and leave out `n` op words of them, or are none. -/
theorem ranCount_spec (h : HostState) (n : Nat) :
    h.ranCount n ≤ h.made ∧
    (h.ranCount n = 0 ∨ n ≤ (((h.call.take h.made).drop (h.ranCount n)).filter HostAction.isOp).length) := by
  obtain ⟨front, hmade, hleft⟩ := withoutOps_leaves_out n (h.call.take h.made).reverse
  have hsplit : h.call.take h.made = (withoutOps n (h.call.take h.made).reverse).reverse ++ front.reverse := by
    rw [← List.reverse_append, ← hmade, List.reverse_reverse]
  refine ⟨?_, hleft.imp (fun hnil => ?_) fun hn => ?_⟩
  · have hlength := congrArg List.length hsplit
    rw [List.length_append, List.length_reverse, List.length_take] at hlength
    rw [HostState.ranCount]
    omega
  · rw [HostState.ranCount, hnil, List.length_nil]
  · have hrest : (h.call.take h.made).drop (h.ranCount n) = front.reverse := by
      conv_lhs => rw [hsplit]
      exact List.drop_left' (List.length_reverse)
    rw [hrest, List.filter_reverse, List.length_reverse]
    exact hn

/-! ### One cycle of the host -/

/-- All that a cycle can be to the host: it writes no op word and learns nothing that counts; it writes an op word within
its credit; or it reads STATUS with ERR = 0. -/
inductive HostCycle (s : State) (h h' : HostState) : Prop where
  | waits (offers : offer s h.access = .nothing) (sure : h'.sure = h.sure) (credit : h'.credit = h.credit)
      (unsuccessful : h.phase = .running → h.todo ≠ [] → h'.phase ≠ .done .success)
  | writes (w : Word) (access : h.access = some (.write 8#5 w)) (sure : h'.sure = h.sure)
      (credit : h'.credit + 1 = h.credit) (running : h'.phase = .running)
  | reads (offers : offer s h.access = .nothing) (err : s.err = false) (sure : h'.sure = h.ranCount (unfinished s.statusValue))
      (credit : h'.credit + s.q.length ≤ s.cfg.qdepth) (success : h'.phase = .done .success → s.isIdle = true)

/-- STATUS read with ERR = 1 ends the call with its failure (R220, R222). -/
theorem hostCycle_of_err {s : State} {h : HostState} (hst : StatusRead s s.statusValue) (herr : s.err = true)
    (hoffer : offer s h.access = .nothing) : HostCycle s h (h.onStatus s.cfg.qdepth s.statusValue) := by
  rw [HostState.onStatus, if_pos (hst.err.trans herr)]
  exact .waits hoffer rfl rfl fun _ _ => by simp [resultOfCode_ne_success]

section
variable {s : State} {h : HostState} (hq : s.q.length ≤ s.cfg.qdepth) (hst : StatusRead s s.statusValue)
include hq hst

/-- STATUS read by a host that waits to write an op word gives it the free places as credit (R221). -/
theorem hostCycle_of_op {w : Word} {rest : List HostAction} (htodo : h.todo = .op w :: rest)
    (hrun : h.phase = .running) (hoffer : offer s h.access = .nothing) :
    HostCycle s h (h.onStatus s.cfg.qdepth s.statusValue) := by
  cases herr : s.err with
  | true => exact hostCycle_of_err hst herr hoffer
  | false =>
    rw [HostState.onStatus, if_neg (by rw [hst.err, herr]; simp), htodo]
    exact .reads hoffer herr rfl (by simp only [hst.count]; omega) fun hdone => by simp [hrun] at hdone

/-- STATUS read by a host in `sync`, which ends when IDLE is 1 (20_memory.md R86). -/
theorem hostCycle_of_sync {rest : List HostAction} (htodo : h.todo = .sync :: rest) (hrun : h.phase = .running)
    (hfits : CreditFits h s) (hoffer : offer s h.access = .nothing) :
    HostCycle s h (h.onStatus s.cfg.qdepth s.statusValue) := by
  cases herr : s.err with
  | true => exact hostCycle_of_err hst herr hoffer
  | false =>
    rw [HostState.onStatus, if_neg (by rw [hst.err, herr]; simp), htodo]
    cases hidle : s.statusValue.getLsbD 0 with
    | true => exact .reads hoffer herr rfl (by simpa using hq) fun _ => hst.idle hidle
    | false => exact .reads hoffer herr rfl hfits fun hdone => by simp [hrun] at hdone

end

theorem running_ne_success : HostPhase.running ≠ .done .success := by simp

/-- A read is answered as a read. -/
theorem exists_regRead_eq (s : State) (off : Offset) : ∃ data err, regRead s off = .read data err := by
  cases hoff : Reg.ofOffset off with
  | none => exact ⟨_, _, regRead_of_none hoff s⟩
  | some r => exact ⟨_, _, regRead_of_some hoff s⟩

/-- Whatever the host does in a cycle, the cycle is one of the three to it. -/
theorem answered_cases {s : State} {h : HostState} (hdepth : s.cfg.qdepth ≤ 255) (hq : s.q.length ≤ s.cfg.qdepth)
    (hfits : CreditFits h s) : HostCycle s h (h.answered s.cfg.qdepth (respond s h.access)) := by
  have hst := statusValue_read (hq.trans hdepth)
  obtain ⟨call, todo, sure, credit, ctrl, phase⟩ := h
  cases phase with
  | done r => exact .waits rfl rfl rfl fun hrun => by simp at hrun
  | flushing => exact .waits rfl rfl rfl fun hrun => by simp at hrun
  | running =>
    match todo with
    | [] => exact .waits rfl rfl rfl fun _ hne => absurd rfl hne
    | .ctrl v :: rest => exact .waits rfl rfl rfl fun _ _ => running_ne_success
    | .status v :: rest => exact .waits rfl rfl rfl fun _ _ => running_ne_success
    | .sync :: rest => exact hostCycle_of_sync hq hst rfl rfl hfits rfl
    | .read off :: rest =>
      obtain ⟨data, err, hread⟩ := exists_regRead_eq s off
      simp only [HostState.access, respond, hread]
      cases err with
      | true => exact .waits rfl rfl rfl fun _ _ => by simp [HostState.answered]
      | false => exact .waits rfl rfl rfl fun _ _ => running_ne_success
    | .op w :: rest =>
      cases credit with
      | zero => exact hostCycle_of_op hq hst rfl rfl rfl
      | succ n => exact .writes w rfl rfl rfl rfl

/-! ### The call in progress -/

/-- The call stays the same, and what has been made of it stays made. -/
structure CallKept (h h' : HostState) : Prop where
  call : h'.call = h.call
  made : h.made ≤ h'.made

theorem CallKept.refl (h : HostState) : CallKept h h := ⟨rfl, le_rfl⟩

/-- The host keeps its call, and makes its actions from the front. -/
theorem CallKept.of_todo {h h' : HostState} (hcall : h'.call = h.call) (htodo : h'.todo = h.todo ∨ h'.todo = h.todo.tail) :
    CallKept h h' := by
  refine ⟨hcall, ?_⟩
  unfold HostState.made
  obtain hsame | htail := htodo
  · rw [hcall, hsame]
  · rw [hcall, htail, List.length_tail]
    omega

theorem onStatus_kept (h : HostState) (qdepth : Nat) (st : Word) : CallKept h (h.onStatus qdepth st) := by
  unfold HostState.onStatus
  split
  · exact .of_todo rfl (.inl rfl)
  · split
    · exact .of_todo rfl (.inl rfl)
    · next htodo =>
      split
      · exact .of_todo rfl (.inr (by rw [htodo]; rfl))
      · exact .of_todo rfl (.inl rfl)
    · exact .of_todo rfl (.inl rfl)
    all_goals exact .refl h

theorem onRead_kept (h : HostState) (qdepth : Nat) (data : Word) : CallKept h (h.onRead qdepth data) := by
  unfold HostState.onRead
  split
  · next htodo => exact .of_todo rfl (.inr (by rw [htodo]; rfl))
  all_goals exact onStatus_kept h qdepth data

theorem onWritten_kept (h : HostState) : CallKept h h.onWritten := by
  unfold HostState.onWritten
  split
  · next htodo => exact .of_todo rfl (.inr (by rw [htodo]; rfl))
  · next htodo => exact .of_todo rfl (.inr (by rw [htodo]; rfl))
  · next htodo => exact .of_todo rfl (.inr (by rw [htodo]; rfl))
  all_goals exact .refl h

theorem answered_kept (h : HostState) (qdepth : Nat) (r : Response) : CallKept h (h.answered qdepth r) := by
  unfold HostState.answered
  split
  · exact .refl h
  · exact .of_todo rfl (.inl rfl)
  · split
    · exact .of_todo rfl (.inl rfl)
    · exact .of_todo rfl (.inl rfl)
    · exact .of_todo rfl (.inl rfl)
    · exact onRead_kept h qdepth _
    · exact onWritten_kept h

/-! ### Flow control -/

theorem loopEdge_eq {busy : Bool} {h h' : HostState} {s s' : State} (e : loopEdge busy h s = (h', .next s')) :
    h' = h.answered s.cfg.qdepth (respond s h.access) ∧
    s' = finishEdge ⟨false, h.access, busy⟩ s (afterSegment h.access s) := by
  rw [loopEdge, clockEdge_run rfl] at e
  cases e
  exact ⟨rfl, rfl⟩

theorem afterSegment_cfg (a : Option Access) (s : State) : (afterSegment a s).cfg = s.cfg := by
  rw [afterSegment, (segmentOf_shell _).cfg, hostWrite_cfg]

section
variable {s : State} {h h' : HostState} (hfits : CreditFits h s) (hcycle : HostCycle s h h')
include hcycle hfits

/-- A host that keeps to its credit never raises OVERFLOW (R221). -/
theorem HostCycle.no_overflow (w : Word) : offer s h.access ≠ .overflow w := by
  cases hcycle with
  | waits offers => simp [offers]
  | reads offers => simp [offers]
  | writes v access sure credit =>
    have hroom : s.q.length ≠ s.cfg.qdepth := by unfold CreditFits at hfits; omega
    cases herr : s.err with
    | true => simp [access, offer_op_of_err v herr]
    | false => simp [access, offer_op_of_room v herr hroom]

/-- The credit stays within the free places whatever the block does at the edge. -/
theorem HostCycle.creditFits (busy : Bool) (after : State) (hcfg : after.cfg = s.cfg) :
    CreditFits h' (finishEdge ⟨false, h.access, busy⟩ s after) := by
  unfold CreditFits at hfits ⊢
  rw [finishEdge_cfg, hcfg, finishEdge_q]
  cases hcycle with
  | waits offers sure credit =>
    have hle := nextQueue_nothing_length_le s.q
    rw [offers, credit]
    exact (Nat.add_le_add_left (hle _ _) _).trans hfits
  | reads offers err sure credit =>
    have hle := nextQueue_nothing_length_le s.q
    rw [offers]
    exact (Nat.add_le_add_left (hle _ _) _).trans credit
  | writes w access sure credit =>
    have hle := nextQueue_length_le_succ s.q
    refine (Nat.add_le_add_left (hle _ _ _) _).trans ?_
    omega

end

section
variable {s : State} {h h' : HostState} (hcycle : HostCycle s h h')
include hcycle

/-- The actions known to be over are counted anew only from a STATUS with ERR = 0. -/
theorem HostCycle.sure_cases : h'.sure = h.sure ∨ s.err = false ∧ h'.sure = h.ranCount (unfinished s.statusValue) := by
  cases hcycle with
  | waits _ sure => exact .inl sure
  | writes _ _ sure => exact .inl sure
  | reads _ err sure => exact .inr ⟨err, sure⟩

/-- A call succeeds only when STATUS shows IDLE = 1 and ERR = 0 (R220). -/
theorem HostCycle.idle_of_success (hrun : h.phase = .running) (htodo : h.todo ≠ [])
    (hdone : h'.phase = .done .success) : s.isIdle = true ∧ s.err = false := by
  cases hcycle with
  | waits _ _ _ unsuccessful => exact absurd hdone (unsuccessful hrun htodo)
  | writes _ _ _ _ running => simp [running] at hdone
  | reads _ err _ _ success => exact ⟨success hdone, err⟩

end

/-- Settles O60: each cycle is one of three to the host, and a next call starts without credit. -/
theorem flowControlNeverOverflows : Obligations.FlowControlNeverOverflows := by
  refine ⟨fun h h' s s' busy hv hq hfits e => ?_, fun h h' call s hq e => ?_, fun h h' point e => ?_⟩
  · obtain ⟨rfl, rfl⟩ := loopEdge_eq e
    obtain ⟨-, hdepth, -⟩ := hv
    have hcycle := answered_cases hdepth hq hfits
    have hkept := answered_kept h s.cfg.qdepth (respond s h.access)
    refine ⟨hcycle.creditFits hfits busy _ (afterSegment_cfg _ s), hcycle.no_overflow hfits, fun hsure => ?_,
      fun herr => ?_, fun hne => ?_, hcycle.idle_of_success⟩
    · obtain hsame | ⟨-, hran⟩ := hcycle.sure_cases
      · exact hsame.trans_le (hsure.trans hkept.made)
      · exact hran.trans_le ((ranCount_spec h _).1.trans hkept.made)
    · obtain hsame | ⟨herr', -⟩ := hcycle.sure_cases
      · exact hsame
      · simp [herr] at herr'
    · obtain hsame | ⟨-, hran⟩ := hcycle.sure_cases
      · exact absurd hsame hne
      · rw [hran, ← (statusValue_read (hq.trans hdepth)).unfinished]
        exact (ranCount_spec h _).2
  · refine ⟨?_, ?_, fun hclear => ?_, fun hclear => ?_⟩
    · rw [(nextCall_eq_some e).2]
      exact (Nat.zero_add _).trans_le hq
    · rw [(nextCall_eq_some e).2]
      exact Nat.zero_le _
    · rw [nextCall_clears_first hclear e]
      exact ⟨rfl, rfl⟩
    · rw [(nextCall_eq_some e).2, hclear]
      rfl
  · obtain ⟨hclear, hle, hnext⟩ := writeAgain_eq_some e
    exact ⟨hle, hnext, by rw [nextCall_clears_first hclear hnext]; rfl⟩

end Sys2Proof.Machine
end

section
/-! The family 60_exceptions.md: what the engine raises, and what an edge records of it and of OVERFLOW (R252 to
R255). -/

namespace Sys2Proof.Machine

/-! ### What the engine raises -/

/-- The illegal words are those that stand for no op (30_encoding.md R111). -/
theorem decode_eq_none_iff {w : Word} : decode w = none ↔ legal w = false := by
  rw [← Bool.not_eq_true, ← exists_decode_iff_legal, Option.eq_none_iff_forall_ne_some, not_exists]

/-- CLOSE raises nothing (R260). -/
theorem runClose_errorsKept (s : State) : ErrorsKept s (runClose s) :=
  runProgram_keeps (P := ErrorsKept s) _
    (fun st hst pc s' hs =>
      hs.trans (doStmt_errorsKept (i := .nop) (by simp) (closeStmts_allowed s.cfg .nop st hst) pc s'))
    (fun _ hs => hs.trans ⟨rfl, rfl, rfl, rfl, rfl⟩) s (.refl s)

theorem ErrorsKept.not_raised {s t : State} (h : ErrorsKept s t) (he : s.err = false) : ¬ Raised s t := fun hr => by
  simpa [hr.err] using h.err.trans he

/-- A legal word can raise TIMEOUT alone, and any other raises ILLEGAL_OP (R252, R253). -/
theorem Raised.errcode_segmentOf {s : State} (hr : Raised s (segmentOf s)) (he : s.err = false) :
    (segmentOf s).errcode = if legal s.cur then 1 else 2 := by
  obtain ⟨-, hseg⟩ | ⟨r, -, ⟨-, hseg⟩ | ⟨i, -, hd, hseg⟩ | ⟨-, hd, hseg⟩⟩ := segmentOf_cases s <;>
    rw [hseg] at hr ⊢
  · exact absurd hr ((ErrorsKept.refl s).not_raised he)
  · exact absurd hr ((runClose_errorsKept s).not_raised he)
  · have hexec := exec_eq i s
    by_cases hi : i = .waitidle
    · subst hi
      obtain hkept | htimeout := waitidle_unfailed_or hexec
      · exact absurd hr (hkept.errors.not_raised he)
      · rw [if_pos (decode_eq_some.mp hd).1]
        exact (htimeout.first he).1
    · exact absurd hr ((exec_errorsKept hexec hi).not_raised he)
  · simp [illegalOp, he, decode_eq_none_iff.mp hd, ErrorKind.code]

section
variable {a : Option Access} {s : State}

theorem afterSegment_raised (h : engineRaised s (afterSegment a s) = true) :
    Raised (hostWrite a s) (afterSegment a s) := by
  obtain hkept | ⟨-, hraised⟩ := segmentOf_kept_or_raised (hostWrite a s)
  · simp [engineRaised, afterSegment, hkept.eng] at h
  · exact hraised

/-- What the engine records of an error of its own when none stands, or the standing one is cleared at the edge. -/
theorem afterSegment_error (h : engineRaised s (afterSegment a s) = true) (he : (hostWrite a s).err = false) :
    (afterSegment a s).errcode = (if legal s.cur then 1 else 2) ∧ (afterSegment a s).errinfo = s.cur := by
  have hr := afterSegment_raised h
  obtain ⟨-, -, -, hinfo⟩ := hr.first he
  refine ⟨by simpa [afterSegment] using hr.errcode_segmentOf he, hinfo.trans ?_⟩
  exact (segmentOf_shell _).cur.trans (hostWrite_cur a s)

/-- An error that stands through the host's write is the one the segment leaves. -/
theorem afterSegment_first_error (he : (hostWrite a s).err = true) :
    (afterSegment a s).err = true ∧ (afterSegment a s).errcode = (hostWrite a s).errcode ∧
    (afterSegment a s).errinfo = s.errinfo := by
  obtain hkept | hraised := segmentOf_errors (hostWrite a s)
  · exact ⟨hkept.err.trans he, hkept.errcode, hkept.errinfo.trans (hostWrite_errinfo a s)⟩
  · obtain ⟨hcode, hinfo⟩ := hraised.later he
    exact ⟨hraised.err, hcode, hinfo.trans (hostWrite_errinfo a s)⟩

end

/-! ### The error registers after the edge -/

/-- An error that stands before the host's access keeps OVERFLOW from arising (R254). -/
theorem err_of_overflow {s : State} {a : Option Access} {w : Word} (h : offer s a = .overflow w) : s.err = false := by
  cases he : s.err with
  | false => rfl
  | true => obtain h' | h' := offer_of_err he a <;> simp [h'] at h

/-- With no error of the engine, none stands after the segment at an edge at which OVERFLOW arises. -/
theorem afterSegment_err_of_overflow {s : State} {a : Option Access} {w : Word}
    (ho : offer s a = .overflow w) (hr : engineRaised s (afterSegment a s) = false) :
    (afterSegment a s).err = false := by
  rw [(afterSegment_errorsKept hr).err, hostWrite_err, err_of_overflow ho, Bool.false_and]

section
variable {inp : Input} {before after : State}

/-- An error that the segment leaves is not overwritten by OVERFLOW (R262). -/
theorem finishEdge_of_err (h : after.err = true) :
    (finishEdge inp before after).err = true ∧ (finishEdge inp before after).errcode = after.errcode ∧
    (finishEdge inp before after).errinfo = after.errinfo := by
  rw [finishEdge_err, finishEdge_errcode, finishEdge_errinfo, raiseOverflow]
  split
  · simp [h]
  all_goals exact ⟨h, rfl, rfl⟩

/-- OVERFLOW is recorded with the written word when no error stands after the segment (R254). -/
theorem finishEdge_of_overflow {w : Word} (ho : offer before inp.access = .overflow w) (h : after.err = false) :
    (finishEdge inp before after).err = true ∧ (finishEdge inp before after).errcode = 3 ∧
    (finishEdge inp before after).errinfo = w := by
  rw [finishEdge_err, finishEdge_errcode, finishEdge_errinfo, raiseOverflow_of_overflow ho]
  simp [h, ErrorKind.code]

end

/-- An error of the engine flushes the queue and leaves the engine idle (R255). -/
theorem finishEdge_of_raised {inp : Input} {s : State}
    (h : engineRaised s (afterSegment inp.access s) = true) :
    (finishEdge inp s (afterSegment inp.access s)).q = [] ∧
    (finishEdge inp s (afterSegment inp.access s)).eng = .idle ∧
    (finishEdge inp s (afterSegment inp.access s)).k = none := by
  have hflush : flushAt s (afterSegment inp.access s) inp.access = true := by simp [flushAt, h]
  have hfree : engineFree s (afterSegment inp.access s) = true :=
    (engineFree_iff _ _).mpr (.inr (afterSegment_raised h).k)
  obtain ⟨hq, -, hidle⟩ := finishEdge_of_flush hflush
  exact ⟨hq, hidle hfree⟩

/-- R255's `prior`: an error stands through the host's write when it is not cleared. -/
theorem hostWrite_err_iff (a : Option Access) (s : State) :
    (hostWrite a s).err = true ↔ s.err = true ∧ clears 5 a = false := by simp [hostWrite_err]

/-- Settles O23: the host's clear comes first, then the engine's error, then OVERFLOW, and each records only where no
error stands. -/
theorem errorProcedureRecordsTheFirstError : Obligations.ErrorProcedureRecordsTheFirstError := by
  intro s t hr hstep a raised prior
  obtain ⟨-, ⟨hrst, -⟩ | ⟨-, rfl⟩⟩ := step_next_cases hstep
  · simp [hr] at hrst
  refine ⟨fun hprior => ?_, fun hprior hraised => ?_, fun _ hraised w ho => ?_, finishEdge_of_raised,
    fun w ho => ?_⟩
  · obtain ⟨herr, hcode, hinfo⟩ := afterSegment_first_error ((hostWrite_err_iff a s).mpr hprior)
    obtain ⟨herr', hcode', hinfo'⟩ := finishEdge_of_err (inp := s.input) (before := s) herr
    refine ⟨herr', hcode'.trans (hcode.trans ?_), hinfo'.trans hinfo⟩
    simp [hostWrite_errcode, hprior.2]
  · have hclear : (hostWrite a s).err = false := by simpa using mt (hostWrite_err_iff a s).mp hprior
    obtain ⟨hcode, hinfo⟩ := afterSegment_error hraised hclear
    obtain ⟨herr', hcode', hinfo'⟩ :=
      finishEdge_of_err (inp := s.input) (before := s) (afterSegment_raised hraised).err
    exact ⟨herr', hcode'.trans hcode, hinfo'.trans hinfo⟩
  · exact finishEdge_of_overflow ho (afterSegment_err_of_overflow ho hraised)
  · exact (finishEdge_of_flush (flushAt_of_overflow ho _)).1

/-- Settles O21: the segment of an illegal word is the raise alone, which the rest of the edge keeps. -/
theorem illegalWordIsRecordedAndFlushes : Obligations.IllegalWordIsRecordedAndFlushes := by
  intro s hv hr he hdue hillegal
  have hseg : afterSegment s.input.access s = illegalOp (hostWrite s.input.access s) := by
    simp [afterSegment, segmentOf, he, hdue, decode_eq_none_iff.mpr hillegal]
  have hraised : engineRaised s (afterSegment s.input.access s) = true := by
    simp [hseg, engineRaised, he, illegalOp]
  obtain ⟨hq, heng, hk⟩ := finishEdge_of_raised hraised
  obtain ⟨herr, hcode, hinfo⟩ := finishEdge_of_err (inp := s.input) (before := s) (afterSegment_raised hraised).err
  refine ⟨_, step_run hv hr, herr, fun hfirst => ?_, hq, heng, hk, ?_⟩
  · have hclear : (hostWrite s.input.access s).err = false := by
      obtain h | h := hfirst <;> simp [hostWrite_err, h]
    obtain ⟨hcode', hinfo'⟩ := afterSegment_error hraised hclear
    exact ⟨by simpa [hillegal] using hcode.trans hcode', hinfo.trans hinfo'⟩
  · simp [hseg, illegalOp]

/-- Settles O22: the segment does not see the word, OVERFLOW only writes the error registers and flushes, and an error
of the engine stands before it. -/
theorem overflowLeavesTheRunningOp : Obligations.OverflowLeavesTheRunningOp := by
  intro s w b herr hfull
  have ho : offer s (some (.write 0x08 w)) = .overflow w := offer_op_of_full w herr hfull
  have hsame : afterSegment (some (.write 0x08 w)) s = afterSegment none s := rfl
  have hfirst (h : (afterSegment none s).err = true) (a : Option Access) :=
    finishEdge_of_err (inp := ⟨false, a, b⟩) (before := s) h
  have hover (h : (afterSegment none s).err = false) :=
    finishEdge_of_overflow (inp := ⟨false, some (.write 0x08 w), b⟩) ho h
  refine ⟨_, _, clockEdge_run rfl s, clockEdge_run rfl s, ?_⟩
  rw [hsame]
  refine ⟨?_, (finishEdge_of_flush (flushAt_of_overflow ho _)).1, by simp, by simp, by simp, by simp, by simp,
    by simp, fun hbusy => ?_, fun hr => ?_, fun hr => ?_⟩
  · cases h : (afterSegment none s).err with
    | true => exact (hfirst h _).1
    | false => exact (hover h).1
  · obtain ⟨heng, hcur, hk⟩ := finishEdge_of_not_free (inp := ⟨false, some (.write 0x08 w), b⟩) hbusy
    obtain ⟨heng', hcur', hk'⟩ := finishEdge_of_not_free (inp := ⟨false, none, b⟩) hbusy
    exact ⟨heng.trans heng'.symm, hk.trans hk'.symm, hcur.trans hcur'.symm⟩
  · exact (hover (afterSegment_err_of_overflow (a := some (.write 0x08 w)) ho hr)).2
  · have herr' := (afterSegment_raised hr).err
    obtain ⟨-, hcode, hinfo⟩ := hfirst herr' (some (.write 0x08 w))
    obtain ⟨-, hcode', hinfo'⟩ := hfirst herr' none
    exact ⟨hcode.trans hcode'.symm, hinfo.trans hinfo'.symm⟩

end Sys2Proof.Machine
end

section
/-! The family 60_exceptions.md: what is started while ERR = 1 (R256), DONE (R266), and the host beside a running op. -/

namespace Sys2Proof.Machine

/-! ### While ERR = 1 -/

theorem dispatchChoice_of_err {before : State} (h : before.err = true) (after : State) (flush : Bool) :
    dispatchChoice before after flush = .nothing ∨ dispatchChoice before after flush = .close := by
  cases flush <;> cases hcs : after.csN <;> simp [dispatchChoice, h, hcs]

section
variable {inp : Input} {before after : State} (h : before.err = true)
include h

/-- While ERR = 1 no word comes to be executed. -/
theorem finishEdge_cur_of_err : (finishEdge inp before after).cur = after.cur := by
  rw [finishEdge_cur]
  cases engineFree before after with
  | false => rfl
  | true =>
    obtain hstart | hstart := dispatchChoice_of_err h after (flushAt before after inp.access) <;> rw [hstart] <;> rfl

theorem eng_after_of_exec (hexec : (finishEdge inp before after).eng = .exec) : after.eng = .exec := by
  rw [finishEdge_eng] at hexec
  cases hfree : engineFree before after with
  | false => simpa [dispatchOp, hfree] using hexec
  | true =>
    obtain hstart | hstart := dispatchChoice_of_err h after (flushAt before after inp.access) <;>
      simp [dispatchOp, hfree, hstart] at hexec

/-- While ERR = 1 an empty queue stays empty: an OP write is dropped (20_memory.md R77). -/
theorem finishEdge_q_of_err (hq : before.q = []) : (finishEdge inp before after).q = [] := by
  obtain ho | ho := offer_of_err h inp.access <;> simp [finishEdge_q, nextQueue, ho, hq]

end

/-- Settles O24: with ERR = 1 the dispatch rule chooses CLOSE or nothing, and the host can only flush. -/
theorem nothingIsDispatchedWhileErr : Obligations.NothingIsDispatchedWhileErr := by
  intro s t hr herr hstep
  obtain ⟨-, ⟨hrst, -⟩ | ⟨-, rfl⟩⟩ := step_next_cases hstep
  · simp [hr] at hrst
  refine ⟨?_, fun hexec => ?_, finishEdge_q_of_err herr, fun hidle hnoflush hlow => ?_⟩
  · exact (finishEdge_cur_of_err herr).trans ((segmentOf_shell _).cur.trans (hostWrite_cur _ s))
  · have hafter : (afterSegment s.input.access s).eng = .exec := eng_after_of_exec herr hexec
    obtain hkept | hraised := segmentOf_errors (hostWrite s.input.access s)
    · simpa using hkept.eng.symm.trans hafter
    · simp [afterSegment, hraised.eng] at hafter
  · have hover : ∀ w, offer s s.input.access ≠ .overflow w := fun w ho => by
      simpa [herr] using err_of_overflow ho
    have hflush : flushAt s (afterSegment s.input.access s) s.input.access = false := by
      simp [flushAt_of_no_overflow hover, hnoflush, engineRaised, hidle]
    have hseg : afterSegment s.input.access s = hostWrite s.input.access s := segmentOf_idle (by simpa using hidle)
    have hfree := (engineFree_iff s (afterSegment s.input.access s)).mpr (.inl hidle)
    obtain ⟨heng, hk, -⟩ := finishEdge_close hfree hflush herr (by simpa [hseg] using hlow)
    exact ⟨heng, hk.trans (by simp)⟩

/-! ### DONE -/

/-- Settles O25: the rest of the edge sets DONE by its rule, and otherwise it is as the host's write left it, which no
segment changes. -/
theorem doneIsSetWhenTheBlockBecomesIdle : Obligations.DoneIsSetWhenTheBlockBecomesIdle := by
  intro s t hr hstep
  obtain ⟨-, ⟨hrst, -⟩ | ⟨-, rfl⟩⟩ := step_next_cases hstep
  · simp [hr] at hrst
  · rw [finishEdge_done, afterSegment, (segmentOf_shell _).done, hostWrite_done]
    simp [and_assoc]

/-! ### The host and a running op -/

/-- The engine's segment at an edge is all a running op sees of it. -/
theorem opEdge_running {s : State} {i : Instr} (he : s.eng = .exec) (hd : decode s.cur = some i) :
    opEdge i s = .next ((segmentOf s).tick s.input.busy) := by
  cases hdue : s.due with
  | true => rw [opEdge_due hdue, segmentOf_exec he hdue hd]
  | false =>
    have hseg : segmentOf s = s := by simp [segmentOf, he, hdue]
    rw [opEdge_wait hdue, hseg]

/-- The segment of an op that goes on carries the host's write through: it depends on none of the fields written. -/
theorem afterSegment_of_goes_on {s : State} {r : Resume} (a : Option Access) (hs : s.eng ≠ .idle)
    (hk : (segmentOf s).k = some r) :
    afterSegment a s =
      ((segmentOf s).withControl (hostWrite a s).en (hostWrite a s).ieDone (hostWrite a s).ieErr
        (hostWrite a s).done).withError (hostWrite a s).err (hostWrite a s).errcode s.errinfo := by
  have hbusy : (segmentOf s).eng ≠ .idle := by rwa [segmentOf_eng hk]
  obtain ⟨-, hcarried⟩ := segmentOf_withError (hostWrite a s).err (hostWrite a s).errcode s.errinfo
    (s.withControl (hostWrite a s).en (hostWrite a s).ieDone (hostWrite a s).ieErr (hostWrite a s).done) hs
  rw [segmentOf_withControl] at hcarried
  exact (congrArg segmentOf (hostWrite_eq a s)).trans (hcarried hbusy)

/-- Settles O35: an op that goes on leaves the engine not free, and its segment carries the host's write through. -/
theorem hostCannotDisturbARunningOp : Obligations.HostCannotDisturbARunningOp := by
  intro s t u i hv hr he hd hu hne hstep
  obtain rfl := Host.Outcome.next.inj ((opEdge_running he hd).symm.trans hu)
  obtain rfl := Host.Outcome.next.inj ((step_run hv hr).symm.trans hstep)
  obtain ⟨r, hk⟩ : ∃ r, (segmentOf s).k = some r := Option.ne_none_iff_exists'.mp hne
  have hcarried := afterSegment_of_goes_on s.input.access (by simp [he]) hk
  have hbusy : engineFree s (afterSegment s.input.access s) = false := by simp [engineFree, he, hcarried, hk]
  obtain ⟨heng, hcur, hk'⟩ := finishEdge_of_not_free (inp := s.input) hbusy
  rw [heng, hcur, hk', hcarried]
  simp

end Sys2Proof.Machine
end

section
/-! The family 70_reset_and_hazards.md: a word written to an idle block (R301), and block reset over all (R290). -/

namespace Sys2Proof.Machine

/-! ### A written word -/

/-- With no op running an edge only finishes what the host wrote. -/
theorem step_next_of_idle {s t : State} (hr : s.input.rst = false) (hidle : s.eng = .idle) (h : step s = .next t) :
    s.cfg.Valid ∧ t = finishEdge s.input s (hostWrite s.input.access s) := by
  obtain ⟨hv, ⟨hrst, -⟩ | ⟨-, rfl⟩⟩ := step_next_cases h
  · simp [hr] at hrst
  · rw [afterSegment, segmentOf_idle ((hostWrite_eng _ s).trans hidle)]
    exact ⟨hv, rfl⟩

/-- An engine that is idle raises nothing. -/
theorem engineRaised_of_idle {before : State} (h : before.eng = .idle) (after : State) :
    engineRaised before after = false := by simp [engineRaised, h]

/-- An op word written to an idle, empty block is queued and not yet started: the dispatch rule reads the queue before
the edge. -/
theorem step_queues_written_word {s t : State} {w : Word} (hr : s.input.rst = false)
    (ha : s.input.access = some (.write 8#5 w)) (hidle : s.eng = .idle) (herr : s.err = false) (hq : s.q = [])
    (h : step s = .next t) :
    t.q = [w] ∧ t.eng = .idle ∧ t.en = s.en ∧ t.err = false ∧ t.cycle = s.cycle + 1 := by
  obtain ⟨hv, rfl⟩ := step_next_of_idle hr hidle h
  have hroom : s.q.length ≠ s.cfg.qdepth := by
    rw [hq]
    exact Nat.ne_of_lt hv.qdepth_pos
  have ho := offer_op_of_room w herr hroom
  have hover : ∀ x, offer s (some (.write 8#5 w)) ≠ .overflow x := by simp [ho]
  have hflush : flushAt s s (some (.write 8#5 w)) = false :=
    (flushAt_op w hover s).trans (engineRaised_of_idle hidle s)
  rw [ha, hostWrite_op]
  obtain ⟨heng, -⟩ := finishEdge_nothing (inp := s.input) ((engineFree_iff s s).mpr (.inl hidle))
    (by rw [ha, hflush]) (.inr ⟨herr, .inr hq⟩)
  refine ⟨?_, heng, finishEdge_en .., ?_, finishEdge_cycle ..⟩
  · simp [finishEdge_q, ha, ho, hflush, hq, nextQueue]
  · rw [finishEdge_err, ha, raiseOverflow_of_no_overflow hover, herr]

/-- Left alone, an idle, enabled block dispatches the head of its queue, whose first segment is due at the edge after. -/
theorem step_dispatches_head {s t : State} {w : Word} {rest : List Word} (hr : s.input.rst = false)
    (ha : s.input.access = none) (hidle : s.eng = .idle) (hen : s.en = true) (herr : s.err = false)
    (hq : s.q = w :: rest) (h : step s = .next t) :
    t.eng = .exec ∧ t.cur = w ∧ t.q = rest ∧ t.k = some ⟨s.cycle + 2, 0⟩ := by
  obtain ⟨-, rfl⟩ := step_next_of_idle hr hidle h
  rw [ha, hostWrite_none]
  have hfree : engineFree s s = true := (engineFree_iff s s).mpr (.inl hidle)
  have hflush : flushAt s s none = false := (flushAt_none s s).trans (engineRaised_of_idle hidle s)
  obtain ⟨heng, hcur, hk, -⟩ := finishEdge_op (inp := s.input) hfree (by rw [ha, hflush]) herr hen hq
  refine ⟨heng, hcur, ?_, hk⟩
  simp [finishEdge_q, hfree, hflush, ha, dispatchChoice, herr, hen, hq, Start.isOp, nextQueue]

/-- Settles O27: the first edge queues the word and the second, which finds it there, dispatches it. -/
theorem writtenWordIsDispatchedAtTheSecondEdge : Obligations.WrittenWordIsDispatchedAtTheSecondEdge := by
  intro s t u w hin hidle hen herr hq hst hr ha htu
  obtain ⟨htq, hteng, hten, hterr, hcycle⟩ :=
    step_queues_written_word (congrArg Input.rst hin) (congrArg Input.access hin) hidle herr hq hst
  obtain ⟨hueng, hucur, huq, huk⟩ := step_dispatches_head hr ha hteng (hten.trans hen) hterr htq htu
  exact ⟨htq, by simp [State.isIdle, htq], hteng, hueng, hucur, huq, by rw [huk, hcycle]⟩

/-! ### Block reset -/

theorem step_of_rst {s : State} (hv : s.cfg.Valid) (hr : s.input.rst = true) : step s = .next s.blockReset := by
  rw [step, if_pos hv, clockEdge_reset hr]

theorem shown_of_rst {s : State} (hr : s.input.rst = true) : s.shown = { State.reset with cfg := s.cfg } := if_pos hr

theorem response_of_rst {s : State} (hr : s.input.rst = true) : s.response = respondInReset s.input.access := if_pos hr

/-- The writes that are refused: those at the offsets of R73 and to the read-only registers of R78. -/
theorem writeErr_iff :
    ∀ off : Offset, writeErr off = true ↔ off.toNat % 4 ≠ 0 ∨ off ∈ [0x18, 0x1C, 0x0C, 0x10, 0x14] := by decide

/-- Settles O2: the pins and `irq` are those of the state shown in reset, and the port answers by the offset alone. -/
theorem blockResetOverridesTheEdge : Obligations.BlockResetOverridesTheEdge := by
  intro s hv hr
  refine ⟨step_of_rst hv hr, ?_, ?_, fun off ha => ?_, fun off v ha => ?_⟩
  · rw [State.pins, shown_of_rst hr]
    rfl
  · rw [State.irqPin, shown_of_rst hr]
    rfl
  · rw [response_of_rst hr, ha]
    exact ⟨_, rfl, Option.isNone_iff_eq_none.trans (ofOffset_eq_none_iff off)⟩
  · rw [response_of_rst hr, ha]
    exact ⟨_, _, rfl, writeErr_iff off, fun h => if_pos ((ofOffset_eq_none_iff off).mpr h)⟩

end Sys2Proof.Machine
end
